-- ==== Sys2Proof/Word.lean ====
section
/-!
DEFINITION. The two word types of the block: a byte of data and a 16-bit command word
(00_scope.md R8, 30_encoding.md R80). Bits are numbered from 0 at the least significant end.
-/

namespace Sys2Proof

/-- An unsigned byte, 0 to 255 (00_scope.md R8). -/
abbrev Byte := BitVec 8

/-- A command word `w[15:0]` (30_encoding.md R80). -/
abbrev Word := BitVec 16

end Sys2Proof
end

