-- ==== Sys2Proof/Config.lean ====
section
/-!
DEFINITION. What is fixed when a block is built (00_scope.md R5) and the free values, which the spec
leaves open (10_state.md R38).
-/

namespace Sys2Proof

/-- `P_SHORT_INNER`: what `decode_frame` returns for an input shorter than 2 bytes (00_scope.md R5,
92_eei_decisions.md D9). -/
inductive ShortInner where
  | unknown
  | cmdOnly
  deriving DecidableEq, Repr

/-- The configuration parameters of 00_scope.md R5, but for `MAGIC`, whose value is fixed. -/
structure Config where
  /-- `P_VERSION`, checked at stream position 6. -/
  version : Byte
  /-- `P_TYPE_RPC`, the type byte of an RPC stream frame. -/
  typeRpc : Byte
  /-- `P_CMD_UNKNOWN`, the "unknown" sentinel. -/
  cmdUnknown : Byte
  /-- `P_CMD_BAD_CHECKSUM`, the "bad checksum" sentinel. -/
  cmdBadChecksum : Byte
  /-- `P_CMD_WIFI_SETTINGS`, a multi-segment command. -/
  cmdWifiSettings : Byte
  /-- `P_CMD_CUSTOM`, the other multi-segment command. -/
  cmdCustom : Byte
  /-- `P_SHORT_INNER`. -/
  shortInner : ShortInner
  deriving DecidableEq, Repr

/-- The block's internal buffers (20_memory.md R50). -/
inductive BufName where
  | syncHist
  | frmBuf
  | resData
  | resSegOff
  | resSegLen
  deriving DecidableEq, Repr

/-- FREE VALUE: the byte the `n`-th host read of an unspecified entry returns (10_state.md R38:
"an arbitrary byte, which a model gives as a free draw on each read"; log 9). -/
opaque Config.freeByte : Nat → Byte

/-- FREE VALUE: what an entry that nothing has written since reset holds (10_state.md R37, R38; log 8).
The block never reads such an entry (20_memory.md R57); the value keeps the reads total. -/
opaque Config.unwritten : BufName → Nat → Byte

end Sys2Proof
end

