-- ==== Sys2Proof/Machine/Operands.lean ====
section
/-!
DEFINITION. The fields of a command word (30_encoding.md R80, R83) and the operand-level choices that
the commands share: the checksum offset (41_frame_codec.md R121) and the multi-segment test
(40_common.md R106).
-/

namespace Sys2Proof.Machine

/-- `OP` = `w[15:12]` (R80). -/
def opField (w : Word) : BitVec 4 := w.extractLsb' 12 4

/-- `V` = `w[8]` (R80). -/
def verifyField (w : Word) : Bool := w.getLsbD 8

/-- `D` = `w[7:0]`, an unsigned byte with no extension, scaling or shift (R83). -/
def dataField (w : Word) : Byte := w.extractLsb' 0 8

/-- `w` with `D` placed in `w[7:0]`. -/
def withData (w : Word) (d : Byte) : Word := w ||| d.setWidth 16

/-- `w` with `V` placed in `w[8]`. -/
def withVerify (w : Word) (v : Bool) : Word := w ||| (if v then 0x0100#16 else 0#16)

/-- `checksum_offset`: 1 when the checksum is verified, else 0 (R121). -/
def checksumOffset (v : Bool) : Nat := if v then 1 else 0

/-- `is_multi(t)` (40_common.md R106). -/
def isMulti (c : Config) (t : Byte) : Bool := t == c.cmdWifiSettings || t == c.cmdCustom

end Sys2Proof.Machine
end

