-- ==== Sys2Proof/Syntax.lean ====
section
/-!
DEFINITION. The six commands of spec/opcode_table.json, one constructor a row (30_encoding.md R82).
`ILLEGAL` is no row: a word that spells no command is what `Sys2Proof.decode` rejects by name and
what the step executes by 40_common.md R105.
-/

namespace Sys2Proof

/-- A command. Each operand has exactly the width R81 gives it, so no term is out of range. -/
inductive Instr where
  /-- `NOP`, format N (R104). -/
  | nop
  /-- `FEED D`, format B: present one stream byte (R180). -/
  | feed (d : Byte)
  /-- `SRST`, format N: abandon the current stream frame (R181). -/
  | srst
  /-- `FLOAD D`, format B: append one byte to the frame buffer (R129). -/
  | fload (d : Byte)
  /-- `FCLR`, format N: empty the frame buffer (R130). -/
  | fclr
  /-- `FDEC V`, format F: decode the loaded frame, `V` = verify the checksum (R131). -/
  | fdec (v : Bool)
  deriving DecidableEq, Repr

end Sys2Proof
end

