-- ==== Sys2Proof/Decode.lean ====
section
/-!
DEFINITION. The decoder and the encoder of command words (30_encoding.md R80 to R85), both written from
the opcode map of R82.
-/

namespace Sys2Proof

open Sys2Proof.Machine

/-- A row of the opcode map (R82). -/
structure Row where
  matchBits : Word
  maskBits : Word
  deriving DecidableEq, Repr

/-- `w` spells the command of row `r`: `(w & mask) == match` (R84). -/
def Row.spells (r : Row) (w : Word) : Bool := (w &&& r.maskBits) == r.matchBits

def rowNop : Row := ⟨0x0000, 0xFFFF⟩
def rowFeed : Row := ⟨0x1000, 0xFF00⟩
def rowSrst : Row := ⟨0x2000, 0xFFFF⟩
def rowFload : Row := ⟨0x3000, 0xFF00⟩
def rowFclr : Row := ⟨0x4000, 0xFFFF⟩
def rowFdec : Row := ⟨0x5000, 0xFEFF⟩

/-- The opcode map, in the order of R82. -/
def opcodeMap : List Row := [rowNop, rowFeed, rowSrst, rowFload, rowFclr, rowFdec]

/-- The row a command is spelled by. -/
def rowOf : Instr → Row
  | .nop => rowNop
  | .feed _ => rowFeed
  | .srst => rowSrst
  | .fload _ => rowFload
  | .fclr => rowFclr
  | .fdec _ => rowFdec

/-- Why a word spells no command (R84): both are executed as `ILLEGAL` (40_common.md R105). -/
inductive Reject where
  /-- `OP` is one of the reserved opcodes 0x6 to 0xF. -/
  | reservedOpcode
  /-- A bit that is reserved for this opcode is set. -/
  | reservedBits
  deriving DecidableEq, Repr

/-- What a command word spells. -/
inductive Decoded where
  | command (i : Instr)
  | illegal (r : Reject)
  deriving DecidableEq, Repr

/-- Decoding (R84), total on all 65536 words. -/
def decode (w : Word) : Decoded :=
  if rowNop.spells w then .command .nop
  else if rowFeed.spells w then .command (.feed (dataField w))
  else if rowSrst.spells w then .command .srst
  else if rowFload.spells w then .command (.fload (dataField w))
  else if rowFclr.spells w then .command .fclr
  else if rowFdec.spells w then .command (.fdec (verifyField w))
  else if opField w < 6 then .illegal .reservedBits
  else .illegal .reservedOpcode

/-- The command a word spells, if any. -/
def Decoded.instr? : Decoded → Option Instr
  | .command i => some i
  | .illegal _ => none

/-- The word of a command: its row's match bits with the operand in its field (R81, R82). -/
def encode : Instr → Word
  | .nop => rowNop.matchBits
  | .feed d => withData rowFeed.matchBits d
  | .srst => rowSrst.matchBits
  | .fload d => withData rowFload.matchBits d
  | .fclr => rowFclr.matchBits
  | .fdec v => withVerify rowFdec.matchBits v

/-- The command word whose bits are the low `nbits` bits of `w`, every other bit 0. A command word is
delivered whole, as 16 parallel bits (20_memory.md R53), so there is no byte order to lay out. -/
def tableWord (nbits w : Nat) : Word := BitVec.ofNat 16 (w % 2 ^ nbits)

/-- The command the decoder reads from an opcode-table word; no command word is longer than 16 bits
(30_encoding.md R85). -/
def decodeTableWord (nbits w : Nat) : Option Instr :=
  if nbits ≤ 16 then (decode (tableWord nbits w)).instr? else none

end Sys2Proof
end

