-- ==== Sys2Proof/Machine/Memory.lean ====
section
/-!
DEFINITION. The contents of one internal buffer: the entries written since reset, as (index, byte) pairs
with strictly rising indices. The block has no other memory (20_memory.md R50). An unlisted index has NO
value: the entry is unwritten, "has no defined value" (10_state.md R38; log 8).
-/

namespace Sys2Proof.Machine

/-- The written entries of one buffer. -/
abbrev Memory := List Host.Cell

/-- The canonical form: indices strictly rising. No byte stands for an unlisted entry, so no entry can
equal what an unlisted index reads as. -/
def Memory.wf : Memory → Bool
  | [] => true
  | [_] => true
  | x :: y :: m => decide (x.1 < y.1) && Memory.wf (y :: m)

/-- What an unlisted index reads as: no value (10_state.md R38; log 8). -/
abbrev Memory.unlisted : Option Byte := none

/-- The byte at index `a`, if one has been written. -/
def Memory.get? : Memory → Nat → Option Byte
  | [], _ => Memory.unlisted
  | (i, b) :: m, a => if i = a then some b else Memory.get? m a

/-- `X[a] <- b` (00_scope.md R12). -/
def Memory.write : Memory → Nat → Byte → Memory
  | [], a, b => [(a, b)]
  | (i, x) :: m, a, b =>
    if a < i then (a, b) :: (i, x) :: m
    else if a = i then (a, b) :: m
    else (i, x) :: Memory.write m a b

/-- The contents after entries `k`, `k+1`, … have been written with `bs` and nothing else. -/
def Memory.ofBytesFrom : Nat → List Byte → Memory
  | _, [] => []
  | k, b :: bs => (k, b) :: Memory.ofBytesFrom (k + 1) bs

/-- The contents after entries 0, 1, … have been written with `bs` and nothing else. -/
def Memory.ofBytes (bs : List Byte) : Memory := Memory.ofBytesFrom 0 bs

/-- Every listed index is below `n`. -/
def Memory.below (m : Memory) (n : Nat) : Bool := m.all (fun x => decide (x.1 < n))

end Sys2Proof.Machine
end

