-- ==== Sys2Proof/WellFormed.lean ====
section
/-!
DEFINITION. What makes a configuration well-formed (00_scope.md R6). A command needs no check of its
own: every operand of `Instr` has the width R81 gives it. The range check on an operand written as a
number is the assembler's (30_encoding.md R86, Machine/Assembler.lean).
-/

namespace Sys2Proof

/-- The four command codes are pairwise distinct (00_scope.md R6). -/
def Config.wf (c : Config) : Bool :=
  c.cmdUnknown != c.cmdBadChecksum && c.cmdUnknown != c.cmdWifiSettings &&
  c.cmdUnknown != c.cmdCustom && c.cmdBadChecksum != c.cmdWifiSettings &&
  c.cmdBadChecksum != c.cmdCustom && c.cmdWifiSettings != c.cmdCustom

end Sys2Proof
end

