-- ==== Sys2Proof/Machine/Params.lean ====
section
/-!
DEFINITION. The fixed preamble, the capacities of the buffers and the parameter values that
`State.reset` carries (00_scope.md R5, R7).
-/

namespace Sys2Proof.Machine

/-- `MAGIC[0..5]`, the ASCII codes of `IMPROV` (00_scope.md R5; log 12). -/
def magic : List Byte := [0x49, 0x4D, 0x50, 0x52, 0x4F, 0x56]

/-- `N_HIST`: entries of `SYNC_HIST` (R7). -/
def nHist : Nat := 264
/-- `N_POS_MAX`: the largest stream position (R7). -/
def nPosMax : Nat := 264
/-- `N_FRM`: entries of `FRM_BUF` (R7). -/
def nFrm : Nat := 258
/-- `N_SEG`: entries of the segment descriptor tables (R7). -/
def nSeg : Nat := 255
/-- `N_DATA`: entries of `RES_DATA` (R7). -/
def nData : Nat := 254

/-- How many entries a buffer has (20_memory.md R50). -/
def capacity : BufName → Nat
  | .syncHist => nHist
  | .frmBuf => nFrm
  | .resData => nData
  | .resSegOff => nSeg
  | .resSegLen => nSeg

/-- The configuration `State.reset` carries. PRESUMED (log 2): the spec's defaults of R5, which it marks
general knowledge. DESIGN CHOICE (log 3): `P_CMD_CUSTOM`, which has no default, is 0x10, the value the
one test vector that needs one assumes (95_test_vectors.md 2.2). No statement rests on these values. -/
def defaultConfig : Config where
  version := 0x01
  typeRpc := 0x03
  cmdUnknown := 0x00
  cmdBadChecksum := 0xFF
  cmdWifiSettings := 0x01
  cmdCustom := 0x10
  shortInner := .unknown

end Sys2Proof.Machine
end

