-- ==== Sys2Proof/Machine/State.lean ====
section
/-!
DEFINITION. The state of the block (10_state.md), the host's actions it still has to take, and the state
after reset (R37). Plain data throughout.
-/

namespace Sys2Proof.Machine

/-- The event codes of `LAST_EVT` (10_state.md R21). -/
inductive Event where
  | cont
  | accept
  | desync
  | checksumError
  | dropped
  | done
  | illegal
  | none
  deriving DecidableEq, Repr

/-- The codes of `RES_STATUS` (10_state.md R22). -/
inductive ResStatus where
  | none
  | ok
  | malformed
  | badChecksum
  deriving DecidableEq, Repr

/-- One action of the host at the block's inputs. -/
inductive PortInput where
  /-- `cmd` offered with `cmd_valid` (70_reset_and_hazards.md R234). -/
  | command (w : Word)
  /-- `rst` asserted between two commands (R230, R231). -/
  | rst
  /-- The descriptor port read at `seg_idx` (10_state.md R35). -/
  | readDesc (segIdx : Byte)
  /-- The data port read at `data_idx` (10_state.md R35). -/
  | readData (dataIdx : Byte)
  deriving DecidableEq, Repr

/-- What the host's latest read of an indexed port returned: the model's own field (log 9). -/
inductive PortRead where
  | noRead
  | desc (segOff segLen : Byte)
  | data (dataByte : Byte)
  deriving DecidableEq, Repr

/-- The state of the block. -/
structure State where
  /-- The parameters of 00_scope.md R5, which no command and no reset changes (10_state.md R39; log 1). -/
  cfg : Config
  /-- `SYNC_POS` (R28). -/
  syncPos : BitVec 9
  /-- `SYNC_HIST` (R29). -/
  syncHist : Memory
  /-- `FRM_BUF` (R31). -/
  frmBuf : Memory
  /-- `FRM_LEN` (R32). -/
  frmLen : BitVec 9
  /-- `FRM_OVF` (R33). -/
  frmOvf : Bool
  /-- `LAST_EVT` (R21). -/
  lastEvt : Event
  /-- `RES_STATUS` (R22). -/
  resStatus : ResStatus
  /-- `RES_CMD` (R23). -/
  resCmd : Byte
  /-- `RES_NSEG` (R24). -/
  resNseg : BitVec 8
  /-- `RES_SEG_OFF` (R25). -/
  resSegOff : Memory
  /-- `RES_SEG_LEN` (R25). -/
  resSegLen : Memory
  /-- `RES_DATA` (R26). -/
  resData : Memory
  /-- `evt_valid` (R35, 40_common.md R100; log 6). -/
  evtValid : Bool
  /-- What the host will do, in order: the model's own field (log 5). -/
  inputs : List PortInput
  /-- The host's latest read of an indexed port: the model's own field (log 9). -/
  lastRead : PortRead
  /-- How many free bytes the indexed ports have drawn: the model's own field (log 9). -/
  draws : Nat
  deriving DecidableEq, Repr

/-- Nothing in this block raises a fault: it has no traps, and every error is a returned value
(60_exceptions.md R200; log 15). So no fault has a constructor. -/
inductive Fault where
  deriving DecidableEq, Repr

/-- Why the model gives no step. -/
inductive Refusal where
  /-- An instruction without a meaning, rejected by name in its arm of `exec`. Raised by no arm of this
  model. Safe. -/
  | notModelled (mnemonic : String)
  /-- Raised by `step` when the four command codes of the configuration are not pairwise distinct
  (00_scope.md R6: "A model refuses an ill-formed configuration"; log 4). Safe. -/
  | illFormedConfig
  deriving DecidableEq, Repr

/-- The block with configuration `c` right after reset (10_state.md R37, 70_reset_and_hazards.md R230,
R232): every buffer entry unspecified, no command completed, no result. -/
def State.resetWith (c : Config) : State where
  cfg := c
  syncPos := 0
  syncHist := []
  frmBuf := []
  frmLen := 0
  frmOvf := false
  lastEvt := .none
  resStatus := .none
  resCmd := c.cmdUnknown
  resNseg := 0
  resSegOff := []
  resSegLen := []
  resData := []
  evtValid := false
  inputs := []
  lastRead := .noRead
  draws := 0

/-- The block right after reset, with the configuration of `defaultConfig`. -/
def State.reset : State := State.resetWith defaultConfig

end Sys2Proof.Machine
end

