-- ==== Sys2Proof/Machine/Results.lean ====
section
/-!
DEFINITION. The result types of the source's functions (00_scope.md R13) and the architectural value of
the result bank (10_state.md R27).
-/

namespace Sys2Proof.Machine

/-- The status of a `ParsedCommand` (00_scope.md R13). -/
inductive ParseStatus where
  | ok
  | malformed
  | badChecksum
  deriving DecidableEq, Repr

/-- A `ParsedCommand` (status, command, data) (00_scope.md R13). -/
structure ParsedCommand where
  status : ParseStatus
  command : Byte
  data : List (List Byte)
  deriving DecidableEq, Repr

/-- A `SyncResult` (00_scope.md R13). -/
inductive SyncResult where
  | cont
  | accept (p : ParsedCommand)
  | desync
  | checksumError
  | dropped
  deriving DecidableEq, Repr

/-- `RES` = (`RES_STATUS`, `RES_CMD`, segments) (10_state.md R27). -/
structure ResValue where
  status : ResStatus
  command : Byte
  segs : List (List Byte)
  deriving DecidableEq, Repr

/-- `code(st)` of `write_result` (40_common.md R101). -/
def statusOf : ParseStatus → ResStatus
  | .ok => .ok
  | .malformed => .malformed
  | .badChecksum => .badChecksum

/-- The event a `FEED` reports for each outcome (43_stream_sync.md R180). -/
def eventOf : SyncResult → Event
  | .cont => .cont
  | .accept _ => .accept
  | .desync => .desync
  | .checksumError => .checksumError
  | .dropped => .dropped

/-- `(MALFORMED, P_CMD_UNKNOWN, [])` (00_scope.md R13). -/
def malformed (c : Config) : ParsedCommand := ⟨.malformed, c.cmdUnknown, []⟩

/-- `(BAD_CHECKSUM, P_CMD_BAD_CHECKSUM, [])` (00_scope.md R13). -/
def badChecksum (c : Config) : ParsedCommand := ⟨.badChecksum, c.cmdBadChecksum, []⟩

end Sys2Proof.Machine
end

