-- ==== Sys2Proof/Machine/Ops.lean ====
section
/-!
DEFINITION. The named operations over the buffers and registers: block-side reads, the updates every
command is made of, the result write (40_common.md R101), the event report (R102), and the architectural
value of the result bank (10_state.md R27). There is no exception entry or return to model: the block has
no traps (60_exceptions.md R200).
-/

namespace Sys2Proof.Machine

/-- `f[a..b)` (00_scope.md R9). -/
def slice (f : List Byte) (a b : Nat) : List Byte := (f.drop a).take (b - a)

/-- The contents of a buffer (20_memory.md R50). -/
def State.buf (s : State) : BufName → Memory
  | .syncHist => s.syncHist
  | .frmBuf => s.frmBuf
  | .resData => s.resData
  | .resSegOff => s.resSegOff
  | .resSegLen => s.resSegLen

/-- The block's own read of entry `i` of a buffer. An entry nothing has written since reset holds a free
value (10_state.md R38; log 8). -/
def State.readBuf (s : State) (n : BufName) (i : Nat) : Byte :=
  ((s.buf n).get? i).getD (Config.unwritten n i)

/-- `X[a .. a+k)` of a buffer as a byte sequence (00_scope.md R9). -/
def State.readRange (s : State) (n : BufName) (a k : Nat) : List Byte :=
  (List.range k).map (fun j => s.readBuf n (a + j))

/-- The history `SYNC_HIST[0 .. SYNC_POS)` (10_state.md R29). -/
def State.history (s : State) : List Byte := s.readRange .syncHist 0 s.syncPos.toNat

/-- The loaded frame `FRM_BUF[0 .. FRM_LEN)` (10_state.md R31). -/
def State.frame (s : State) : List Byte := s.readRange .frmBuf 0 s.frmLen.toNat

/-- Segment `i` of the current result (10_state.md R25). -/
def State.segment (s : State) (i : Nat) : List Byte :=
  s.readRange .resData (s.readBuf .resSegOff i).toNat (s.readBuf .resSegLen i).toNat

/-- `RES`, the architectural value of the result bank (10_state.md R27). -/
def State.res (s : State) : ResValue :=
  ⟨s.resStatus, s.resCmd, (List.range s.resNseg.toNat).map s.segment⟩

/-- `LAST_EVT <- e`, every command's last effect (40_common.md R102). -/
def State.report (s : State) (e : Event) : State := { s with lastEvt := e }

/-- `SYNC_POS <- 0` (43_stream_sync.md R180, R181). -/
def State.restartSync (s : State) : State := { s with syncPos := 0 }

/-- `SYNC_HIST[SYNC_POS] <- d; SYNC_POS <- SYNC_POS + 1` (43_stream_sync.md R180). -/
def State.pushHist (s : State) (d : Byte) : State :=
  { s with syncHist := s.syncHist.write s.syncPos.toNat d, syncPos := s.syncPos + 1 }

/-- `FRM_BUF[FRM_LEN] <- d; FRM_LEN <- FRM_LEN + 1` (41_frame_codec.md R129). -/
def State.pushFrame (s : State) (d : Byte) : State :=
  { s with frmBuf := s.frmBuf.write s.frmLen.toNat d, frmLen := s.frmLen + 1 }

/-- `FRM_OVF <- 1` (41_frame_codec.md R129). -/
def State.overflowFrame (s : State) : State := { s with frmOvf := true }

/-- `FRM_LEN <- 0; FRM_OVF <- 0` (41_frame_codec.md R130). -/
def State.clearFrame (s : State) : State := { s with frmLen := 0, frmOvf := false }

/-- The offsets `write_result` gives the segments, the first one at `o` (40_common.md R101). -/
def segOffsets : Nat → List (List Byte) → List Byte
  | _, [] => []
  | o, seg :: segs => BitVec.ofNat 8 o :: segOffsets (o + seg.length) segs

/-- `write_result(p)` (40_common.md R101): the whole previous result is replaced, and every entry beyond
those written becomes unspecified. -/
def State.writeResult (s : State) (p : ParsedCommand) : State :=
  { s with
    resStatus := statusOf p.status
    resCmd := p.command
    resNseg := BitVec.ofNat 8 p.data.length
    resSegOff := Memory.ofBytes (segOffsets 0 p.data)
    resSegLen := Memory.ofBytes (p.data.map (fun seg => BitVec.ofNat 8 seg.length))
    resData := Memory.ofBytes p.data.flatten }

/-- The host's actions still to come are `rest`. -/
def State.withInputs (s : State) (rest : List PortInput) : State := { s with inputs := rest }

/-- `pulse evt_valid` (40_common.md R100). -/
def State.pulse (s : State) : State := { s with evtValid := true }

/-- The command of a step is over: its `evt_valid` pulse follows (40_common.md R100). -/
def finish : Host.Outcome State Fault Refusal → Host.Outcome State Fault Refusal
  | .next s => .next s.pulse
  | .fault r => .fault r
  | .refused r => .refused r

/-- The host offers nothing: the block waits, its state unchanged, and the pulse of the command before is
over (20_memory.md R56, 60_exceptions.md R213, R217; log 5, 6). -/
def State.idle (s : State) : State := { s with evtValid := false }

/-- `rst` (70_reset_and_hazards.md R230): every register at its reset value, every buffer entry
unspecified, the parameters unchanged, no pulse. What the host does next and has read is the host's, not
the block's, and stays (log 11). -/
def State.applyReset (s : State) : State :=
  { State.resetWith s.cfg with inputs := s.inputs, lastRead := s.lastRead, draws := s.draws }

/-- The command word `w` offered ahead of everything else the host will do. -/
def State.offer (s : State) (w : Word) : State := { s with inputs := .command w :: s.inputs }

end Sys2Proof.Machine
end

