-- ==== Sys2Proof/Machine/Common.lean ====
section
/-!
DEFINITION. The commands outside the families (40_common.md R104, R105).
-/

namespace Sys2Proof.Machine

/-- `NOP` (R104). -/
def execNop (s : State) : Host.Outcome State Fault Refusal := .next (s.report .done)

/-- `ILLEGAL`: a word that spells no command (R105). It changes `LAST_EVT` and nothing else. -/
def execIllegal (s : State) : Host.Outcome State Fault Refusal := .next (s.report .illegal)

end Sys2Proof.Machine
end

