-- ==== Sys2Proof/Machine/Flags.lean ====
section
/-!
DEFINITION. The codes of the outcome registers (10_state.md R21, R22), the status word made of them and
of the one flag `FRM_OVF` (R33, R34, R36), and the checksum (00_scope.md R11, 40_common.md R103).
-/

namespace Sys2Proof.Machine

/-- The 3-bit code of an event (R21). -/
def eventCode : Event → BitVec 3
  | .cont => 0
  | .accept => 1
  | .desync => 2
  | .checksumError => 3
  | .dropped => 4
  | .done => 5
  | .illegal => 6
  | .none => 7

/-- The 2-bit code of a result status (R22). -/
def statusCode : ResStatus → BitVec 2
  | .none => 0
  | .ok => 1
  | .malformed => 2
  | .badChecksum => 3

/-- `status[15:0]`: `LAST_EVT` in bits 2 to 0, `RES_STATUS` in bits 4 to 3, `FRM_OVF` in bit 5, the rest
0 (R34). -/
def statusWord (s : State) : BitVec 16 :=
  (eventCode s.lastEvt).setWidth 16 ||| ((statusCode s.resStatus).setWidth 16 <<< 3) |||
    ((BitVec.ofBool s.frmOvf).setWidth 16 <<< 5)

/-- `cs8(f)`: the unsigned sum of the bytes, modulo 256 (00_scope.md R11). -/
def cs8 (f : List Byte) : Byte := BitVec.ofNat 8 (f.map BitVec.toNat).sum

/-- The 8-bit accumulator of 40_common.md R103, started at `acc`. -/
def cs8Acc (acc : Byte) (f : List Byte) : Byte := f.foldl (fun a b => a + b) acc

end Sys2Proof.Machine
end

