-- ==== Sys2Proof/Machine/SegmentDecoder.lean ====
section
/-!
DEFINITION. The segment decoder (42_segment_decoder.md R150 to R157).
-/

namespace Sys2Proof.Machine

/-- The loop of `segment_decode` (R150) from cursor `c` with boundary `b`, at most `fuel` turns. Every turn
moves the cursor by at least 1 (R157), so `b - c` turns are enough. `none` is `FAIL`. Outside
the contract (R150: `B <= |f|`), where no caller goes, the model chooses (log 17): a length byte beyond the
sequence fails, and a segment that fits the boundary but runs past the sequence is the bytes the sequence has,
so `segmentDecode [0, 0, 5] 2 8` is `[[]]`. -/
def segmentLoop (f : List Byte) (b : Nat) : Nat → Nat → Option (List (List Byte))
  | 0, _ => some []
  | fuel + 1, c =>
    if c < b then
      match f[c]? with
      | none => none
      | some n =>
        if c + 1 + n.toNat > b then none
        else (segmentLoop f b fuel (c + 1 + n.toNat)).map
          (fun segs => slice f (c + 1) (c + 1 + n.toNat) :: segs)
    else some []

/-- `segment_decode(f, c, B)` (R150); `none` is `FAIL`. -/
def segmentDecode (f : List Byte) (c b : Nat) : Option (List (List Byte)) :=
  segmentLoop f b (b - c) c

end Sys2Proof.Machine
end

