-- ==== Sys2Proof/Machine/FrameCodec.lean ====
section
/-!
DEFINITION. The frame codec: `decode_frame` (41_frame_codec.md R120 to R128) and the commands `FLOAD`,
`FCLR` and `FDEC` (R129 to R132).
-/

namespace Sys2Proof.Machine

/-- `decode_frame` of an input shorter than 2 bytes (R122). -/
def decodeShort (c : Config) (f : List Byte) (v : Bool) : ParsedCommand :=
  match c.shortInner, f, v with
  | .cmdOnly, [t], false => ⟨.ok, t, []⟩
  | _, _, _ => malformed c

/-- The length check passes: `Ldecl == |f| - 2 - off`, over the integers (R123). -/
def lengthOk (f : List Byte) (ldecl : Byte) (v : Bool) : Bool :=
  decide ((ldecl.toNat : Int) = (f.length : Int) - 2 - (checksumOffset v : Int))

/-- The checksum check passes: the last byte is the `cs8` of all bytes before it (R124). -/
def checksumOk (f : List Byte) : Bool :=
  decide (f[f.length - 1]? = some (cs8 (slice f 0 (f.length - 1))))

/-- The result once length and checksum are right: segments for a multi-segment command (R125), no data
for a single-value one (R126). -/
def decodePayload (c : Config) (f : List Byte) (t : Byte) (v : Bool) : ParsedCommand :=
  if isMulti c t then
    match segmentDecode f 2 (f.length - checksumOffset v) with
    | none => malformed c
    | some segs => ⟨.ok, t, segs⟩
  else ⟨.ok, t, []⟩

/-- `decode_frame(f, v)` (R120), with its checks in the order of 60_exceptions.md R207. -/
def decodeFrame (c : Config) (f : List Byte) (v : Bool) : ParsedCommand :=
  match f with
  | t :: ldecl :: _ =>
    if !lengthOk f ldecl v then malformed c
    else if v && !checksumOk f then badChecksum c
    else decodePayload c f t v
  | _ => decodeShort c f v

/-- `FLOAD D` (R129). -/
def execFload (d : Byte) (s : State) : Host.Outcome State Fault Refusal :=
  .next ((if s.frmLen.toNat < nFrm then s.pushFrame d else s.overflowFrame).report .done)

/-- `FCLR` (R130). -/
def execFclr (s : State) : Host.Outcome State Fault Refusal :=
  .next (s.clearFrame.report .done)

/-- The `ParsedCommand` that `FDEC V` writes: `MALFORMED` when the buffer has overflowed, otherwise
`decode_frame` of the loaded frame (R131). -/
def fdecResult (v : Bool) (s : State) : ParsedCommand :=
  if s.frmOvf then malformed s.cfg else decodeFrame s.cfg s.frame v

/-- `FDEC V` (R131). -/
def execFdec (v : Bool) (s : State) : Host.Outcome State Fault Refusal :=
  .next ((s.writeResult (fdecResult v s)).report .done)

end Sys2Proof.Machine
end

