-- ==== Sys2Proof/Machine/StreamSync.lean ====
section
/-!
DEFINITION. The stream synchronizer: `feed_byte` (43_stream_sync.md R170 to R179) and the commands `FEED`
and `SRST` (R180, R181).
-/

namespace Sys2Proof.Machine

/-- `feed_byte` at the checksum position of a frame with length byte `n` (R175, R176, R177). -/
def feedChecksum (c : Config) (b : Byte) (h : List Byte) (n : Nat) : SyncResult :=
  if cs8 (slice h 0 (9 + n)) != b then .checksumError
  else if h[7]? = some c.typeRpc then .accept (decodeFrame c (slice h 9 (9 + n)) false)
  else .dropped

/-- `feed_byte(p, b, h)` (R170), `h` the bytes at positions `0 .. p-1`. A position beyond the checksum
position gives `DESYNC` (R178). Outside the contract (R170: `|h| == p`), where no caller goes, the model chooses
(log 17): a history too short to hold position 8 gives `DESYNC`, and any other is read as far as it goes. -/
def feedByte (c : Config) (p : Nat) (b : Byte) (h : List Byte) : SyncResult :=
  if p ≤ 5 then (if magic[p]? = some b then .cont else .desync)
  else if p = 6 then (if b = c.version then .cont else .desync)
  else if p ≤ 8 then .cont
  else
    match h[8]? with
    | none => .desync
    | some n =>
      if p ≤ 8 + n.toNat then .cont
      else if p = 9 + n.toNat then feedChecksum c b h n.toNat
      else .desync

/-- The effect of a `FEED` of `d` whose outcome is `r` (R180). -/
def State.afterFeed (s : State) (d : Byte) : SyncResult → State
  | .cont => (s.pushHist d).report .cont
  | .accept p => ((s.writeResult p).restartSync).report .accept
  | .desync => s.restartSync.report .desync
  | .checksumError => s.restartSync.report .checksumError
  | .dropped => s.restartSync.report .dropped

/-- `FEED D` (R180). -/
def execFeed (d : Byte) (s : State) : Host.Outcome State Fault Refusal :=
  .next (s.afterFeed d (feedByte s.cfg s.syncPos.toNat d s.history))

/-- `SRST` (R181). -/
def execSrst (s : State) : Host.Outcome State Fault Refusal :=
  .next (s.restartSync.report .done)

end Sys2Proof.Machine
end

