-- ==== Sys2Proof/Machine/Dispatch.lean ====
section
/-! DEFINITION. One arm a command (40_common.md R100). -/

namespace Sys2Proof.Machine

def exec (i : Instr) (s : State) : Host.Outcome State Fault Refusal :=
  match i with
  | .nop => Sys2Proof.Machine.execNop s
  | .feed d => Sys2Proof.Machine.execFeed d s
  | .srst => Sys2Proof.Machine.execSrst s
  | .fload d => Sys2Proof.Machine.execFload d s
  | .fclr => Sys2Proof.Machine.execFclr s
  | .fdec v => Sys2Proof.Machine.execFdec v s

end Sys2Proof.Machine
end

