-- ==== Sys2Proof/Machine/Ports.lean ====
section
/-!
DEFINITION. The block's ports (10_state.md R35, 70_reset_and_hazards.md R234): the outputs a host sees
between commands, and the reads of the two indexed ports.
-/

namespace Sys2Proof.Machine

/-- `sync_pos[8:0]` (R35). -/
def State.syncPosOut (s : State) : BitVec 9 := s.syncPos
/-- `frm_len[8:0]` (R35). -/
def State.frmLenOut (s : State) : BitVec 9 := s.frmLen
/-- `res_cmd[7:0]` (R35). -/
def State.resCmdOut (s : State) : Byte := s.resCmd
/-- `res_nseg[7:0]` (R35). -/
def State.resNsegOut (s : State) : BitVec 8 := s.resNseg
/-- `evt_valid` (R35). -/
def State.evtValidOut (s : State) : Bool := s.evtValid

/-- `cmd_ready` (R234). Between two commands, the only times the model shows, it is high (log 7). -/
def State.cmdReadyOut (_ : State) : Bool := true

/-- `cmd`, with `cmd_valid`: the word the host offers, if it offers one (R234). -/
def State.cmdIn (s : State) : Option Word :=
  match s.inputs with
  | .command w :: _ => some w
  | _ => none

/-- A descriptor table's entry, where it is specified: at an index below `RES_NSEG` (10_state.md R25,
R38). Index 255 never is (R35). -/
def State.descEntry (s : State) (n : BufName) (idx : Byte) : Option Byte :=
  if idx.toNat < s.resNseg.toNat then (s.buf n).get? idx.toNat else none

/-- The segments' total length, which is where the specified bytes of `RES_DATA` end (10_state.md R26). -/
def State.dataTotal (s : State) : Nat :=
  if s.resNseg.toNat = 0 then 0
  else (s.readBuf .resSegOff (s.resNseg.toNat - 1)).toNat +
    (s.readBuf .resSegLen (s.resNseg.toNat - 1)).toNat

/-- An entry of `RES_DATA`, where it is specified (10_state.md R26, R35, R38). -/
def State.dataEntry (s : State) (idx : Byte) : Option Byte :=
  if idx.toNat < s.dataTotal ∧ idx.toNat < nData then s.resData.get? idx.toNat else none

/-- A host read returned `r`, and `k` free bytes more have been drawn. -/
def State.recordRead (s : State) (r : PortRead) (k : Nat) : State :=
  { s with lastRead := r, draws := s.draws + k }

/-- A read of the descriptor port: `seg_off` and `seg_len` at `seg_idx`, each a free draw of its own where
it is unspecified (10_state.md R35, R38). Nothing of the block changes. -/
def State.hostReadDesc (s : State) (idx : Byte) : State :=
  s.recordRead
    (.desc ((s.descEntry .resSegOff idx).getD (Config.freeByte s.draws))
      ((s.descEntry .resSegLen idx).getD (Config.freeByte (s.draws + 1)))) 2

/-- A read of the data port: `data_byte` at `data_idx`, a free draw where it is unspecified (10_state.md
R35, R38). Nothing of the block changes. -/
def State.hostReadData (s : State) (idx : Byte) : State :=
  s.recordRead (.data ((s.dataEntry idx).getD (Config.freeByte s.draws))) 1

end Sys2Proof.Machine
end

