-- ==== Sys2Proof/Machine/Step.lean ====
section
/-!
DEFINITION. The execution step (40_common.md R100), with the host's other actions around it: one action of
the host a step (10_state.md R35, 70_reset_and_hazards.md R230, R234; log 5).
-/

namespace Sys2Proof.Machine

/-- One step. With an ill-formed configuration the model refuses (00_scope.md R6). -/
def step (s : State) : Host.Outcome State Fault Refusal :=
  if s.cfg.wf then
    match s.inputs with
    | [] => .next s.idle
    | .command w :: rest =>
      match decode w with
      | .command i => finish (exec i (s.withInputs rest))
      | .illegal _ => finish (execIllegal (s.withInputs rest))
    | .rst :: rest => .next (s.withInputs rest).applyReset
    | .readDesc idx :: rest => .next ((s.withInputs rest).hostReadDesc idx)
    | .readData idx :: rest => .next ((s.withInputs rest).hostReadData idx)
  else .refused .illFormedConfig

/-- `s` with the command word of an opcode-table row offered next: the block fetches nothing (20_memory.md
R62), so the command port is where its next command comes from. -/
def State.withFetchWord (s : State) (nbits w : Nat) : State := s.offer (tableWord nbits w)

end Sys2Proof.Machine
end

