-- ==== Sys2Proof/Machine/Formats.lean ====
section
/-!
DEFINITION. The wire formats as functions from their fields to bytes (30_encoding.md R70 to R79). The block
parses these formats and never builds one; the assembler (R87) and the statements build its inputs.
-/

namespace Sys2Proof.Machine

/-- A length byte, the length modulo 256. Where a part has more than 255 bytes, its user below says whether the
spec states that or the model chooses it. -/
def lenByte (bs : List Byte) : Byte := BitVec.ofNat 8 bs.length

/-- `[segment_length] ++ segment_bytes` for every segment, packed with no padding (R75, R76). DESIGN CHOICE
(log 20): a segment of more than 255 bytes, which has no such form and which a generator of test frames refuses
(93_implementation_defined.md, the row of R78), is neither refused nor cut: all its bytes stand behind its
length modulo 256. -/
def packSegments : List (List Byte) → List Byte
  | [] => []
  | seg :: segs => (lenByte seg :: seg) ++ packSegments segs

/-- A frame for `decode_frame`: `[command] ++ [length] ++ payload ++ checksum?`, the checksum over every
byte before it (R72, R79). With `packSegments fields` as payload it is the reference format of R78. A
payload of more than 255 bytes has its length modulo 256 in the length byte, as in 95_test_vectors.md's
correction of 90_conflicts.md C3. -/
def commandFrame (t : Byte) (payload : List Byte) (checksum : Bool) : List Byte :=
  let body := t :: lenByte payload :: payload
  if checksum then body ++ [cs8 body] else body

/-- The stream frame before its checksum: magic, version, type, length, payload (R70). A payload of more
than 255 bytes, which no stream frame has, gets its length modulo 256 (DESIGN CHOICE, log 20). -/
def streamBody (c : Config) (type : Byte) (payload : List Byte) : List Byte :=
  magic ++ [c.version, type, lenByte payload] ++ payload

/-- A stream frame (R70), with the checksum of R79. -/
def streamFrame (c : Config) (type : Byte) (payload : List Byte) : List Byte :=
  streamBody c type payload ++ [cs8 (streamBody c type payload)]

end Sys2Proof.Machine
end

