-- ==== Sys2Proof/Machine/Assembler.lean ====
section
/-!
DEFINITION. The assembler: assembly lines, their words (30_encoding.md R86, R87) and the reading of a line
of text. `none` is an assembly error. The lexical points that R86 leaves open are in log 14.
-/

namespace Sys2Proof.Machine

/-- A line: a command, `.word`, or a pseudo-instruction, its operands as numbers not yet checked. -/
inductive AsmLine where
  | nop
  | feed (d : Nat)
  | srst
  | fload (d : Nat)
  | fclr
  | fdec (v : Nat)
  | word (w : Nat)
  | feeds (bs : List Nat)
  | feedstr (cs : List Char)
  | sframe (t : Nat) (ps : List Nat)
  | floads (bs : List Nat)
  | frame (v : Nat) (bs : List Nat)
  | framecs (bs : List Nat)
  deriving DecidableEq, Repr

/-- A byte operand, 0 to 255; out of range is an assembly error (R86). -/
def asmByte (n : Nat) : Option Byte := if n ≤ 255 then some (BitVec.ofNat 8 n) else none

/-- A list of byte operands. -/
def asmBytes : List Nat → Option (List Byte)
  | [] => some []
  | n :: ns =>
    match asmByte n, asmBytes ns with
    | some b, some bs => some (b :: bs)
    | _, _ => none

/-- One or more byte operands `b0, ..., bk` (R87); none at all is an error (DESIGN CHOICE, log 14). -/
def asmBytes1 (ns : List Nat) : Option (List Byte) := if ns = [] then none else asmBytes ns

/-- `FDEC`'s operand, 0 or 1 (R86). -/
def asmFlag (n : Nat) : Option Bool :=
  if n = 0 then some false else if n = 1 then some true else none

/-- The ASCII codes of a string's characters (R87); a character that has none is an error (DESIGN CHOICE,
log 14). -/
def asmChars : List Char → Option (List Byte)
  | [] => some []
  | ch :: cs =>
    match asmChars cs with
    | some bs => if ch.toNat < 128 then some (BitVec.ofNat 8 ch.toNat :: bs) else none
    | none => none

/-- One `FEED` a byte. -/
def feedWords (bs : List Byte) : List Word := bs.map (fun b => encode (.feed b))

/-- One `FLOAD` a byte. -/
def floadWords (bs : List Byte) : List Word := bs.map (fun b => encode (.fload b))

/-- `FCLR`, one `FLOAD` a byte, `FDEC v` (R87, `FRAME` and `FRAMECS`). -/
def frameWords (bs : List Byte) (v : Bool) : List Word :=
  encode .fclr :: floadWords bs ++ [encode (.fdec v)]

/-- The words of a line (R86, R87), `P_VERSION` taken from the configuration. DESIGN CHOICE (log 14): an
`SFRAME` of more than 255 payload bytes, whose length byte R87 gives no value, is an error; the empty string
of `FEEDSTR` gives no words. -/
def assemble (c : Config) : AsmLine → Option (List Word)
  | .nop => some [encode .nop]
  | .feed d => (asmByte d).map (fun b => [encode (.feed b)])
  | .srst => some [encode .srst]
  | .fload d => (asmByte d).map (fun b => [encode (.fload b)])
  | .fclr => some [encode .fclr]
  | .fdec v => (asmFlag v).map (fun b => [encode (.fdec b)])
  | .word w => if w < 65536 then some [BitVec.ofNat 16 w] else none
  | .feeds bs => (asmBytes1 bs).map feedWords
  | .feedstr cs => (asmChars cs).map feedWords
  | .sframe t ps =>
    match asmByte t, asmBytes ps with
    | some t', some ps' =>
      if ps'.length ≤ 255 then some (feedWords (streamFrame c t' ps')) else none
    | _, _ => none
  | .floads bs => (asmBytes1 bs).map floadWords
  | .frame v bs =>
    match asmFlag v, asmBytes1 bs with
    | some v', some bs' => some (frameWords bs' v')
    | _, _ => none
  | .framecs bs => (asmBytes1 bs).map (fun bs' => frameWords (bs' ++ [cs8 bs']) true)

/-- A token of a line. -/
inductive Tok where
  | name (cs : List Char)
  | num (n : Nat)
  | str (cs : List Char)
  | comma
  deriving DecidableEq, Repr

/-- The apostrophe around a character literal. -/
def tickChar : Char := Char.ofNat 39
/-- The double quote around a string. -/
def quoteChar : Char := Char.ofNat 34

/-- The value of a hexadecimal digit. -/
def hexDigit (ch : Char) : Option Nat :=
  if '0'.toNat ≤ ch.toNat ∧ ch.toNat ≤ '9'.toNat then some (ch.toNat - '0'.toNat)
  else if 'a'.toNat ≤ ch.toNat ∧ ch.toNat ≤ 'f'.toNat then some (ch.toNat - 'a'.toNat + 10)
  else if 'A'.toNat ≤ ch.toNat ∧ ch.toNat ≤ 'F'.toNat then some (ch.toNat - 'A'.toNat + 10)
  else none

def isDecDigit (ch : Char) : Bool := decide ('0'.toNat ≤ ch.toNat ∧ ch.toNat ≤ '9'.toNat)

/-- A character of a mnemonic or directive: a capital letter, a small letter or a dot. -/
def isNameChar (ch : Char) : Bool :=
  decide ('A'.toNat ≤ ch.toNat ∧ ch.toNat ≤ 'Z'.toNat) ||
    decide ('a'.toNat ≤ ch.toNat ∧ ch.toNat ≤ 'z'.toNat) || ch == '.'

/-- The number that the digits spell in base `base`. -/
def digitsValue (base : Nat) (cs : List Char) : Nat :=
  cs.foldl (fun a ch => a * base + (hexDigit ch).getD 0) 0

/-- The tokens of a line up to its comment, at most `fuel` of them and blanks (R86). DESIGN CHOICE (log 14):
blanks and tabs may stand anywhere between two tokens and are needed nowhere, so `FEED0x49` is `FEED 0x49`; a
string has no escapes, so its next double quote ends it and it can hold none; a `;` inside a string or a
character literal starts no comment; a character literal holds any one ASCII character, an apostrophe too;
the hexadecimal prefix is `0x`, its digits of either case. -/
def lexLine : Nat → List Char → Option (List Tok)
  | 0, _ => some []
  | fuel + 1, cs =>
    match cs with
    | [] => some []
    | ch :: rest =>
      if ch = ';' then some []
      else if ch = ' ' ∨ ch = '\t' then lexLine fuel rest
      else if ch = ',' then (lexLine fuel rest).map (fun ts => .comma :: ts)
      else if ch = tickChar then
        match rest with
        | lit :: close :: rest' =>
          if close = tickChar ∧ lit.toNat < 128 then
            (lexLine fuel rest').map (fun ts => .num lit.toNat :: ts)
          else none
        | _ => none
      else if ch = quoteChar then
        match rest.dropWhile (fun x => x != quoteChar) with
        | [] => none
        | _ :: rest' =>
          (lexLine fuel rest').map (fun ts => .str (rest.takeWhile (fun x => x != quoteChar)) :: ts)
      else if ch = '0' ∧ rest.head? = some 'x' then
        if (rest.tail.takeWhile (fun x => (hexDigit x).isSome)) = [] then none
        else
          (lexLine fuel (rest.tail.dropWhile (fun x => (hexDigit x).isSome))).map
            (fun ts => .num (digitsValue 16 (rest.tail.takeWhile (fun x => (hexDigit x).isSome))) :: ts)
      else if isDecDigit ch then
        (lexLine fuel (rest.dropWhile isDecDigit)).map
          (fun ts => .num (digitsValue 10 (ch :: rest.takeWhile isDecDigit)) :: ts)
      else if isNameChar ch then
        (lexLine fuel (rest.dropWhile isNameChar)).map
          (fun ts => .name (ch :: rest.takeWhile isNameChar) :: ts)
      else none

/-- Operands separated by commas, each a number in any of R86's three forms, since a character literal is a
number here (DESIGN CHOICE, log 14). -/
def parseOperands : List Tok → Option (List Nat)
  | [.num n] => some [n]
  | .num n :: .comma :: ts => (parseOperands ts).map (fun ns => n :: ns)
  | _ => none

/-- The line a mnemonic and its operands make (R86, R87). R86 names the decimal, hexadecimal and character
forms for `FEED` and `FLOAD` only; DESIGN CHOICE (log 14): `FDEC`, `.word` and every number of a
pseudo-instruction take all three as well. Capitals and small letters differ. -/
def parseNamed (m : List Char) (ts : List Tok) : Option AsmLine :=
  if m = "NOP".toList then (if ts = [] then some .nop else none)
  else if m = "SRST".toList then (if ts = [] then some .srst else none)
  else if m = "FCLR".toList then (if ts = [] then some .fclr else none)
  else if m = "FEEDSTR".toList then
    match ts with
    | [.str cs] => some (.feedstr cs)
    | _ => none
  else
    match parseOperands ts with
    | none => none
    | some ns =>
      if m = "FEED".toList then (match ns with | [d] => some (.feed d) | _ => none)
      else if m = "FLOAD".toList then (match ns with | [d] => some (.fload d) | _ => none)
      else if m = "FDEC".toList then (match ns with | [v] => some (.fdec v) | _ => none)
      else if m = ".word".toList then (match ns with | [w] => some (.word w) | _ => none)
      else if m = "FEEDS".toList then some (.feeds ns)
      else if m = "FLOADS".toList then some (.floads ns)
      else if m = "FRAMECS".toList then some (.framecs ns)
      else if m = "SFRAME".toList then (match ns with | t :: ps => some (.sframe t ps) | _ => none)
      else if m = "FRAME".toList then (match ns with | v :: bs => some (.frame v bs) | _ => none)
      else none

/-- The words of one line of text. DESIGN CHOICE (log 14): a blank line or a line that is all comment has no
words and is no error. -/
def assembleText (c : Config) (cs : List Char) : Option (List Word) :=
  match lexLine (cs.length + 1) cs with
  | none => none
  | some [] => some []
  | some (.name m :: ts) => (parseNamed m ts).bind (assemble c)
  | some _ => none

/-- The words of a program, one command a line, in order (R86). DESIGN CHOICE (log 14): an error in one line
is an error of the program. -/
def assembleProgram (c : Config) : List (List Char) → Option (List Word)
  | [] => some []
  | l :: ls =>
    match assembleText c l, assembleProgram c ls with
    | some ws, some vs => some (ws ++ vs)
    | _, _ => none

/-- The words `ws` offered, in order, after everything else the host will do. -/
def State.offerAll (s : State) (ws : List Word) : State :=
  s.withInputs (s.inputs ++ ws.map (fun w => .command w))

end Sys2Proof.Machine
end

