-- ==== Sys2Proof/Machine/SyncFsm.lean ====
section
/-!
DEFINITION. The synchronizer as named states (43_stream_sync.md R183): the named state of a `SYNC_POS` and
`SYNC_HIST[8]`, and the machine R183 allows in place of the whole history, which holds the named state, a
running 8-bit checksum, the type byte, the length and the payload bytes.
-/

namespace Sys2Proof.Machine

/-- The named states of R183. -/
inductive SyncState where
  | preamble (k : Nat)
  | version
  | headerType
  | headerLen
  | payload (i : Nat)
  | checksum
  deriving DecidableEq, Repr

/-- The named state at position `p` of a frame with length byte `n` (R183). The table of R183 gives none
beyond `9 + n`, which no position reaches (10_state.md R30); DESIGN CHOICE (log 19): it is `Checksum` there. -/
def syncStateAt (p n : Nat) : SyncState :=
  if p ≤ 5 then .preamble p
  else if p = 6 then .version
  else if p = 7 then .headerType
  else if p = 8 then .headerLen
  else if p ≤ 8 + n then .payload (p - 9)
  else .checksum

/-- The block's named state, a function of `SYNC_POS` and `SYNC_HIST[8]` (R183). -/
def State.syncState (s : State) : SyncState :=
  syncStateAt s.syncPos.toNat (s.readBuf .syncHist 8).toNat

/-- What an implementation may hold instead of the history (R183). -/
structure CompactSync where
  st : SyncState
  sum : Byte
  type : Byte
  len : Byte
  payload : List Byte
  deriving DecidableEq, Repr

/-- The compact machine before the first byte of a frame. -/
def compactStart : CompactSync := ⟨.preamble 0, 0, 0, 0, []⟩

/-- One byte into the compact machine, by the table of R183. The table has no `Preamble(k)` with `k > 5` and no
`Payload(i)` with `i >= n`, and no run reaches one; DESIGN CHOICE (log 19): the first gives `DESYNC`, the second
stores the byte and goes to `Checksum`. -/
def compactFeed (c : Config) (b : Byte) (m : CompactSync) : SyncResult × CompactSync :=
  match m.st with
  | .preamble k =>
    if magic[k]? = some b then
      (.cont, { m with st := if k < 5 then .preamble (k + 1) else .version, sum := m.sum + b })
    else (.desync, compactStart)
  | .version =>
    if b = c.version then (.cont, { m with st := .headerType, sum := m.sum + b })
    else (.desync, compactStart)
  | .headerType => (.cont, { m with st := .headerLen, sum := m.sum + b, type := b })
  | .headerLen =>
    (.cont, { m with
      st := if 1 ≤ b.toNat then .payload 0 else .checksum
      sum := m.sum + b
      len := b
      payload := [] })
  | .payload i =>
    (.cont, { m with
      st := if i + 1 < m.len.toNat then .payload (i + 1) else .checksum
      sum := m.sum + b
      payload := m.payload ++ [b] })
  | .checksum =>
    (if m.sum != b then .checksumError
      else if m.type = c.typeRpc then .accept (decodeFrame c m.payload false)
      else .dropped, compactStart)

/-- The compact machine `m` stands for the synchronizer of `s`: same named state, the checksum, type byte,
length and payload those of the history, each from the position at which it is known. -/
structure CompactMatches (m : CompactSync) (s : State) : Prop where
  st : m.st = s.syncState
  sum : m.sum = cs8 s.history
  type : 8 ≤ s.syncPos.toNat → m.type = s.readBuf .syncHist 7
  len : 9 ≤ s.syncPos.toNat → m.len = s.readBuf .syncHist 8
  payload : 9 ≤ s.syncPos.toNat → m.payload = slice s.history 9 s.syncPos.toNat

end Sys2Proof.Machine
end

