-- ==== Sys2Proof/Safety.lean ====
section
/-!
DEFINITION. What the statements about the block use: the invariants its commands keep (10_state.md R23 to
R33, 20_memory.md R57), runs of commands, and the part of the state a host can observe (10_state.md R35).
-/

namespace Sys2Proof.Machine

/-- The invariant of the synchronizer (10_state.md R30), with what the checks at positions 0 to 6 have let
through (43_stream_sync.md R171, R172). -/
structure SyncInv (s : State) : Prop where
  pos_le : s.syncPos.toNat ≤ nPosMax
  written : ∀ i < s.syncPos.toNat, (s.syncHist.get? i).isSome = true
  extent : 9 ≤ s.syncPos.toNat → s.syncPos.toNat ≤ 9 + (s.readBuf .syncHist 8).toNat
  preamble : ∀ i < 6, i < s.syncPos.toNat → magic[i]? = some (s.readBuf .syncHist i)
  version : 7 ≤ s.syncPos.toNat → s.readBuf .syncHist 6 = s.cfg.version

/-- The invariant of the frame buffer (10_state.md R31 to R33). -/
structure FrameInv (s : State) : Prop where
  len_le : s.frmLen.toNat ≤ nFrm
  written : ∀ i < s.frmLen.toNat, (s.frmBuf.get? i).isSome = true
  overflow : s.frmOvf = true → s.frmLen.toNat = nFrm

/-- The invariant of the result bank (10_state.md R22 to R27). -/
structure ResInv (s : State) : Prop where
  /-- No segments unless the status is `OK` (R24). -/
  failed : s.resStatus ≠ .ok → s.resNseg = 0
  /-- No segments for a single-value command (R24). -/
  single : isMulti s.cfg s.resCmd = false → s.resNseg = 0
  /-- The command field of a result that is not `OK` (R23, R27). -/
  noneCmd : s.resStatus = .none → s.resCmd = s.cfg.cmdUnknown
  malformedCmd : s.resStatus = .malformed → s.resCmd = s.cfg.cmdUnknown
  badChecksumCmd : s.resStatus = .badChecksum → s.resCmd = s.cfg.cmdBadChecksum
  /-- Every segment has a descriptor (R25). -/
  offWritten : ∀ i < s.resNseg.toNat, (s.resSegOff.get? i).isSome = true
  lenWritten : ∀ i < s.resNseg.toNat, (s.resSegLen.get? i).isSome = true
  /-- The segments are concatenated in order (R26). -/
  firstOff : 0 < s.resNseg.toNat → s.readBuf .resSegOff 0 = 0
  nextOff : ∀ i, i + 1 < s.resNseg.toNat →
    (s.readBuf .resSegOff (i + 1)).toNat =
      (s.readBuf .resSegOff i).toNat + (s.readBuf .resSegLen i).toNat
  /-- At most `N_DATA` segment bytes, all of them written (R26). -/
  total_le : s.dataTotal ≤ nData
  dataWritten : ∀ i < s.dataTotal, (s.resData.get? i).isSome = true

/-- Every buffer is in canonical form and inside its index range (20_memory.md R50, R57). -/
def BufInv (s : State) : Prop := ∀ n, (s.buf n).wf = true ∧ (s.buf n).below (capacity n) = true

/-- The invariant of the block. -/
structure Inv (s : State) : Prop where
  sync : SyncInv s
  frame : FrameInv s
  res : ResInv s
  bufs : BufInv s

/-- The bits of a word that are reserved for an opcode (30_encoding.md R81). -/
def reservedMask (op : BitVec 4) : Word :=
  match op.toNat with
  | 0 => 0x0FFF
  | 1 => 0x0F00
  | 2 => 0x0FFF
  | 3 => 0x0F00
  | 4 => 0x0FFF
  | 5 => 0x0EFF
  | _ => 0

/-- `w` has a reserved opcode or a reserved bit set for its opcode (30_encoding.md R84). -/
abbrev ReservedWord (w : Word) : Prop :=
  6 ≤ (opField w).toNat ∨ w &&& reservedMask (opField w) ≠ 0

/-- The value of the result bank that holds `p` (10_state.md R27). -/
def valueOf (p : ParsedCommand) : ResValue := ⟨statusOf p.status, p.command, p.data⟩

/-- The commands `is` executed one after the other, stopping at the first that gives no next state. -/
def execAll : List Instr → State → Host.Outcome State Fault Refusal
  | [], s => .next s
  | i :: is, s =>
    match exec i s with
    | .next t => execAll is t
    | .fault r => .fault r
    | .refused r => .refused r

/-- One `FEED` a byte. -/
def feeds (bs : List Byte) : List Instr := bs.map (fun b => .feed b)

/-- One `FLOAD` a byte. -/
def floads (bs : List Byte) : List Instr := bs.map (fun b => .fload b)

/-- Two states that the block itself cannot tell apart: equal but for entries of `SYNC_HIST` and `FRM_BUF`
at or beyond `SYNC_POS` and `FRM_LEN`, and for the descriptors and data bytes beyond the current result
(10_state.md R29, R31, R38). -/
structure SameVisible (s t : State) : Prop where
  cfg : s.cfg = t.cfg
  syncPos : s.syncPos = t.syncPos
  history : s.history = t.history
  frmLen : s.frmLen = t.frmLen
  frame : s.frame = t.frame
  frmOvf : s.frmOvf = t.frmOvf
  lastEvt : s.lastEvt = t.lastEvt
  res : s.res = t.res

/-- The result bank of `t` is that of `s`, entry for entry. -/
structure SameBank (s t : State) : Prop where
  status : t.resStatus = s.resStatus
  cmd : t.resCmd = s.resCmd
  nseg : t.resNseg = s.resNseg
  off : ∀ i, t.resSegOff.get? i = s.resSegOff.get? i
  len : ∀ i, t.resSegLen.get? i = s.resSegLen.get? i
  data : ∀ i, t.resData.get? i = s.resData.get? i

/-- The frame buffer of `t` is that of `s`, entry for entry. -/
structure SameFrameBuffer (s t : State) : Prop where
  len : t.frmLen = s.frmLen
  ovf : t.frmOvf = s.frmOvf
  buf : ∀ i, t.frmBuf.get? i = s.frmBuf.get? i

/-- The synchronizer of `t` is that of `s`, entry for entry. -/
structure SameSync (s t : State) : Prop where
  pos : t.syncPos = s.syncPos
  hist : ∀ i, t.syncHist.get? i = s.syncHist.get? i

/-- What no command touches: the parameters and the host's own side of the ports. -/
structure SameHostSide (s t : State) : Prop where
  cfg : t.cfg = s.cfg
  evtValid : t.evtValid = s.evtValid
  inputs : t.inputs = s.inputs
  lastRead : t.lastRead = s.lastRead
  draws : t.draws = s.draws

end Sys2Proof.Machine
end

