-- ==== Sys2Proof/Certificates/Slice0/Obligations.lean ====
section
/-!
DEFINITION. The statements about the block. Every one is for every configuration, so none rests on the
parameter values of `State.reset` (log 2, log 3), and none rests on a value of `Config.freeByte` or
`Config.unwritten`.
-/

open Sys2Proof Sys2Proof.Machine

/-! ## Encoding -/

/-- 30_encoding.md R82, R83, R84: decoding and encoding agree on all 65536 words and every operand. -/
def Obligations.DecodeReadsExactlyTheEncodedWord : Prop :=
  ∀ (w : Word) (i : Instr), decode w = .command i ↔ w = encode i

/-- 30_encoding.md R84. In the last clause two things are the model's choice: that a word comes to be offered as
the first of the host's actions in `inputs` (log 5), and the level of `evt_valid` that `finish` sets (log 6). -/
def Obligations.WordSpellsTheRowItMatches : Prop :=
  (∀ w : Word, ∀ r ∈ opcodeMap, ∀ r' ∈ opcodeMap,
    r.spells w = true → r'.spells w = true → r = r') ∧
  (∀ (w : Word) (i : Instr), decode w = .command i →
    rowOf i ∈ opcodeMap ∧ w &&& (rowOf i).maskBits = (rowOf i).matchBits) ∧
  (∀ w : Word, (∃ r ∈ opcodeMap, r.spells w = true) → ∃ i, decode w = .command i) ∧
  (∀ w : Word, (∀ r ∈ opcodeMap, r.spells w = false) ↔ ReservedWord w) ∧
  (∀ (s : State) (w : Word) (rest : List PortInput), s.cfg.wf = true →
    s.inputs = .command w :: rest → (∀ r ∈ opcodeMap, r.spells w = false) →
    step s = finish (execIllegal { s with inputs := rest }))

/-- 30_encoding.md R82: words written out from the patterns, one or two a family. -/
def Obligations.SampleCommandWordsDecode : Prop :=
  decode 0b0000000000000000 = .command .nop ∧
  decode 0b0001000001001001 = .command (.feed 0x49) ∧
  decode 0b0010000000000000 = .command .srst ∧
  decode 0b0011000000000010 = .command (.fload 0x02) ∧
  decode 0b0100000000000000 = .command .fclr ∧
  decode 0b0101000000000000 = .command (.fdec false) ∧
  decode 0b0101000100000000 = .command (.fdec true) ∧
  decode 0b0001000101001001 = .illegal .reservedBits ∧
  decode 0b0110000000000000 = .illegal .reservedOpcode

/-- 30_encoding.md R86: an operand in range gives the command's word, one out of range an error. -/
def Obligations.AssemblerChecksOperandRange : Prop :=
  ∀ (c : Config) (n : Nat),
    assemble c (.feed n) = (if n ≤ 255 then some [encode (.feed (BitVec.ofNat 8 n))] else none) ∧
    assemble c (.fload n) = (if n ≤ 255 then some [encode (.fload (BitVec.ofNat 8 n))] else none) ∧
    assemble c (.fdec n) =
      (if n = 0 then some [encode (.fdec false)]
        else if n = 1 then some [encode (.fdec true)] else none) ∧
    assemble c (.word n) = (if n < 65536 then some [BitVec.ofNat 16 n] else none)

/-- 30_encoding.md R87: what the words of each pseudo-instruction decode to. That `FEEDSTR` of the empty string
is no error and gives no words, the clause's case `cs = []`, is the model's choice (log 14). -/
def Obligations.PseudoInstructionsExpandToCommands : Prop :=
  ∀ (c : Config) (t : Byte) (ps : List Byte),
    (ps.length ≤ 255 → ∃ ws, assemble c (.sframe t.toNat (ps.map BitVec.toNat)) = some ws ∧
      ws.map decode = (feeds (streamFrame c t ps)).map .command) ∧
    (ps ≠ [] → ∃ ws, assemble c (.feeds (ps.map BitVec.toNat)) = some ws ∧
      ws.map decode = (feeds ps).map .command) ∧
    (∀ cs : List Char, (∀ ch ∈ cs, ch.toNat < 128) → ∃ ws, assemble c (.feedstr cs) = some ws ∧
      ws.map decode = (feeds (cs.map (fun ch => BitVec.ofNat 8 ch.toNat))).map .command) ∧
    (ps ≠ [] → ∃ ws, assemble c (.floads (ps.map BitVec.toNat)) = some ws ∧
      ws.map decode = (floads ps).map .command) ∧
    (ps ≠ [] → ∀ v : Bool, ∃ ws, assemble c (.frame v.toNat (ps.map BitVec.toNat)) = some ws ∧
      ws.map decode = (Instr.fclr :: floads ps ++ [Instr.fdec v]).map .command) ∧
    (ps ≠ [] → ∃ ws, assemble c (.framecs (ps.map BitVec.toNat)) = some ws ∧
      ws.map decode = (Instr.fclr :: floads (ps ++ [cs8 ps]) ++ [Instr.fdec true]).map .command)

/-! ## The step -/

/-- 40_common.md R100: a step takes the offered word, executes the command it spells, or `ILLEGAL`, and
pulses `evt_valid`. Taking one of the host's actions a step is the model's choice (log 5), and so is how
long the pulse stands (log 6). -/
def Obligations.StepExecutesTheOfferedCommand : Prop :=
  ∀ (s : State) (w : Word) (rest : List PortInput),
    s.cfg.wf = true → s.inputs = .command w :: rest →
    (∀ i : Instr, decode w = .command i → ∃ t, exec i { s with inputs := rest } = .next t ∧
      step s = .next { t with evtValid := true }) ∧
    (∀ r : Reject, decode w = .illegal r →
      step s = .next { s with inputs := rest, lastEvt := .illegal, evtValid := true })

/-- 40_common.md R105, 60_exceptions.md R206. -/
def Obligations.IllegalWordOnlyReports : Prop :=
  (∀ w : Word, ReservedWord w ↔ ∃ r, decode w = .illegal r) ∧
  (∀ s : State, execIllegal s = .next { s with lastEvt := .illegal })

/-- 20_memory.md R56, 60_exceptions.md R213, R217: with nothing offered the block holds its state. That
nothing offered is the empty list, and that the pulse of the last command is then over, are the model's choices
(log 5, log 6). -/
def Obligations.IdleBlockHoldsItsState : Prop :=
  ∀ s : State, s.cfg.wf = true → s.inputs = [] → step s = .next { s with evtValid := false }

/-- 00_scope.md R6. R6 does not say where a model refuses: that the step does, in every state, is the model's
reading (log 4). -/
def Obligations.IllFormedConfigurationIsRefused : Prop :=
  (∀ c : Config, c.wf = true ↔
    [c.cmdUnknown, c.cmdBadChecksum, c.cmdWifiSettings, c.cmdCustom].Nodup) ∧
  (∀ s : State, s.cfg.wf = false → step s = .refused .illFormedConfig)

/-- 40_common.md R100, R102, 60_exceptions.md R200: every command completes in every state and reports one
of its own events. -/
def Obligations.EveryCommandCompletesAndReports : Prop :=
  ∀ (i : Instr) (s : State), ∃ t, exec i s = .next t ∧
    (match i with
      | .feed _ => t.lastEvt ∈ [.cont, .accept, .desync, .checksumError, .dropped]
      | _ => t.lastEvt = .done)

/-! ## Reset -/

/-- 10_state.md R37, 70_reset_and_hazards.md R232. R37 leaves the buffer entries unspecified; that none is
listed after reset is the model's choice (log 8), and so is the empty list of host actions on which the block
waits (log 5). -/
def Obligations.ResetLeavesTheStatedValues : Prop :=
  (∀ c : Config,
    (State.resetWith c).syncPos = 0 ∧ (State.resetWith c).frmLen = 0 ∧
    (State.resetWith c).frmOvf = false ∧ eventCode (State.resetWith c).lastEvt = 7 ∧
    statusCode (State.resetWith c).resStatus = 0 ∧ (State.resetWith c).resCmd = c.cmdUnknown ∧
    (State.resetWith c).resNseg = 0 ∧
    (∀ n i, ((State.resetWith c).buf n).get? i = none) ∧
    (State.resetWith c).syncState = .preamble 0 ∧
    (State.resetWith c).res = ⟨.none, c.cmdUnknown, []⟩) ∧
  (∀ c : Config, c.wf = true → step (State.resetWith c) = .next (State.resetWith c)) ∧
  State.reset = State.resetWith State.reset.cfg

/-- 70_reset_and_hazards.md R230. An unspecified entry is one that no write has listed (log 8). R230 says
that reset does not pulse `evt_valid`; that it ends a level still high from the command before is the model's
choice (log 6), and so is `rst` as one of the host's listed actions (log 5). -/
def Obligations.ResetInputRestoresTheRegisters : Prop :=
  ∀ (s : State) (rest : List PortInput), s.cfg.wf = true → s.inputs = .rst :: rest →
    ∃ t, step s = .next t ∧ t.cfg = s.cfg ∧ t.syncPos = 0 ∧ t.frmLen = 0 ∧ t.frmOvf = false ∧
      t.lastEvt = .none ∧ t.resStatus = .none ∧ t.resCmd = s.cfg.cmdUnknown ∧ t.resNseg = 0 ∧
      (∀ n i, (t.buf n).get? i = none) ∧ t.evtValid = false

/-! ## The commands -/

/-- 40_common.md R104. -/
def Obligations.NopOnlyReportsDone : Prop :=
  encode .nop = 0x0000 ∧ ∀ s : State, exec .nop s = .next { s with lastEvt := .done }

/-- 43_stream_sync.md R181. -/
def Obligations.SrstRestartsTheStream : Prop :=
  encode .srst = 0x2000 ∧
  ∀ s : State, exec .srst s = .next { s with syncPos := 0, lastEvt := .done }

/-- 41_frame_codec.md R130. -/
def Obligations.FclrEmptiesTheFrameBuffer : Prop :=
  encode .fclr = 0x4000 ∧
  ∀ s : State, exec .fclr s = .next { s with frmLen := 0, frmOvf := false, lastEvt := .done }

/-- 41_frame_codec.md R129. -/
def Obligations.FloadAppendsOrOverflows : Prop :=
  (∀ d : Byte, encode (.fload d) = 0x3000 ||| d.setWidth 16) ∧
  ∀ (d : Byte) (s : State),
    (s.frmLen.toNat < 258 → exec (.fload d) s = .next
      { s with
        frmBuf := s.frmBuf.write s.frmLen.toNat d
        frmLen := BitVec.ofNat 9 (s.frmLen.toNat + 1)
        lastEvt := .done }) ∧
    (258 ≤ s.frmLen.toNat → exec (.fload d) s = .next { s with frmOvf := true, lastEvt := .done })

/-- 41_frame_codec.md R131, with the value of the result bank it leaves (10_state.md R27). -/
def Obligations.FdecDecodesTheLoadedFrame : Prop :=
  encode (.fdec false) = 0x5000 ∧ encode (.fdec true) = 0x5100 ∧
  ∀ (v : Bool) (s : State), ∃ t, exec (.fdec v) s = .next t ∧ t.lastEvt = .done ∧
    t.res = valueOf (if s.frmOvf then ⟨.malformed, s.cfg.cmdUnknown, []⟩
      else decodeFrame s.cfg s.frame v) ∧
    t.frmBuf = s.frmBuf ∧ t.frmLen = s.frmLen ∧ t.frmOvf = s.frmOvf ∧ t.syncPos = s.syncPos

/-- 43_stream_sync.md R180. -/
def Obligations.FeedActsOnTheOutcome : Prop :=
  (∀ d : Byte, encode (.feed d) = 0x1000 ||| d.setWidth 16) ∧
  ∀ (d : Byte) (s : State), ∃ t, exec (.feed d) s = .next t ∧
    (match feedByte s.cfg s.syncPos.toNat d s.history with
      | .cont => t = { s with
          syncHist := s.syncHist.write s.syncPos.toNat d
          syncPos := BitVec.ofNat 9 (s.syncPos.toNat + 1)
          lastEvt := .cont }
      | .accept p => t = { s.writeResult p with syncPos := 0, lastEvt := .accept } ∧
          t.res = valueOf p
      | .desync => t = { s with syncPos := 0, lastEvt := .desync }
      | .checksumError => t = { s with syncPos := 0, lastEvt := .checksumError }
      | .dropped => t = { s with syncPos := 0, lastEvt := .dropped })

/-- 20_memory.md R55: which commands are idempotent, and that the other two are not. -/
def Obligations.RepeatingACommandChangesNothing : Prop :=
  (∀ (i : Instr) (s : State), (∀ d, i ≠ .feed d) → (∀ d, i ≠ .fload d) →
    ∃ t, exec i s = .next t ∧ exec i t = .next t) ∧
  (∀ s t : State, execIllegal s = .next t → execIllegal t = .next t) ∧
  (∃ (s t u : State) (d : Byte), exec (.feed d) s = .next t ∧ exec (.feed d) t = .next u ∧ t ≠ u) ∧
  (∃ (s t u : State) (d : Byte), exec (.fload d) s = .next t ∧ exec (.fload d) t = .next u ∧ t ≠ u)

/-! ## What the commands leave unchanged

`SameHostSide` names fields that are the model's own form of the ports: the host's list (log 5), the level of
`evt_valid`, which the step sets after the command (log 6), and what the host has read (log 9). That a command
itself leaves them alone is the model's choice. -/

/-- 40_common.md R104, 43_stream_sync.md R181, 41_frame_codec.md R130, 20_memory.md R51: `NOP`, `SRST` and
`FCLR` touch no buffer entry and no register but those their rules name. -/
def Obligations.NopSrstFclrFrame : Prop :=
  ∀ (i : Instr) (s t : State), i ∈ [.nop, .srst, .fclr] → exec i s = .next t →
    (∀ n a, (t.buf n).get? a = (s.buf n).get? a) ∧ SameBank s t ∧ SameHostSide s t ∧
    (i ≠ .srst → SameSync s t) ∧ (i ≠ .fclr → SameFrameBuffer s t)

/-- 41_frame_codec.md R129: `FLOAD` stores at `FRM_LEN` when that is below 258, and nowhere else. -/
def Obligations.FloadFrame : Prop :=
  ∀ (d : Byte) (s t : State), exec (.fload d) s = .next t →
    SameSync s t ∧ SameBank s t ∧ SameHostSide s t ∧
    (s.frmLen.toNat < 258 → t.frmOvf = s.frmOvf ∧
      ∀ a, a ≠ s.frmLen.toNat → t.frmBuf.get? a = s.frmBuf.get? a) ∧
    (258 ≤ s.frmLen.toNat → t.frmLen = s.frmLen ∧ ∀ a, t.frmBuf.get? a = s.frmBuf.get? a)

/-- 41_frame_codec.md R131: `FDEC` writes the result bank and `LAST_EVT` only. -/
def Obligations.FdecFrame : Prop :=
  ∀ (v : Bool) (s t : State), exec (.fdec v) s = .next t →
    SameSync s t ∧ SameFrameBuffer s t ∧ SameHostSide s t

/-- 43_stream_sync.md R180: `FEED` never touches the frame buffer; it stores at `SYNC_POS` on `CONTINUE`
and nowhere else in the history; it writes the result bank on `ACCEPT` only. -/
def Obligations.FeedFrame : Prop :=
  ∀ (d : Byte) (s t : State), exec (.feed d) s = .next t →
    SameFrameBuffer s t ∧ SameHostSide s t ∧
    (t.lastEvt ≠ .accept → SameBank s t) ∧
    (∀ a, a ≠ s.syncPos.toNat → t.syncHist.get? a = s.syncHist.get? a) ∧
    (t.lastEvt ≠ .cont → ∀ a, t.syncHist.get? a = s.syncHist.get? a)

/-- 20_memory.md R58: what changes the result bank. That a step takes `rst` or a command from the host's list is
the model's form (log 5). -/
def Obligations.OnlyWriteResultOrResetChangesTheBank : Prop :=
  ∀ s t : State, step s = .next t →
    SameBank s t ∨ (∃ rest, s.inputs = .rst :: rest) ∨
    (∃ w rest v, s.inputs = .command w :: rest ∧ decode w = .command (.fdec v)) ∨
    (∃ w rest d, s.inputs = .command w :: rest ∧ decode w = .command (.feed d) ∧ t.lastEvt = .accept)

/-- 60_exceptions.md R203: only `FDEC 1` records `BAD_CHECKSUM`. -/
def Obligations.OnlyVerifyingFdecReportsBadChecksum : Prop :=
  ∀ (i : Instr) (s t : State), exec i s = .next t → s.resStatus ≠ .badChecksum →
    t.resStatus = .badChecksum → i = .fdec true

/-! ## The result bank and the checksum -/

/-- 40_common.md R101, with the status codes it names. R101 makes the entries beyond those written
unspecified; that no write lists such an entry any more is the model's reading (log 8, log 10). -/
def Obligations.WriteResultLaysOutTheSegments : Prop :=
  (∀ (s : State) (p : ParsedCommand), p.data.length ≤ 255 → p.data.flatten.length ≤ 254 →
    (s.writeResult p).resStatus = statusOf p.status ∧
    statusCode (s.writeResult p).resStatus =
      (match p.status with | .ok => 1 | .malformed => 2 | .badChecksum => 3) ∧
    (s.writeResult p).resCmd = p.command ∧
    (s.writeResult p).resNseg.toNat = p.data.length ∧
    (∀ i seg, p.data[i]? = some seg → ∃ off len : Byte,
      (s.writeResult p).resSegOff.get? i = some off ∧
      (s.writeResult p).resSegLen.get? i = some len ∧
      off.toNat = ((p.data.take i).map List.length).sum ∧ len.toNat = seg.length ∧
      ∀ j b, seg[j]? = some b → (s.writeResult p).resData.get? (off.toNat + j) = some b) ∧
    (∀ i, p.data.length ≤ i →
      (s.writeResult p).resSegOff.get? i = none ∧ (s.writeResult p).resSegLen.get? i = none) ∧
    (∀ k, p.data.flatten.length ≤ k → (s.writeResult p).resData.get? k = none)) ∧
  (∀ (c : Config) (f : List Byte) (v : Bool),
    (decodeFrame c f v).data.length ≤ 255 ∧ (decodeFrame c f v).data.flatten.length ≤ 254)

/-- 10_state.md R25, R26, R27, for the bank held in the descriptor layout (log 10): it holds
exactly the `ParsedCommand` written. -/
def Obligations.BankValueIsTheWrittenResult : Prop :=
  (∀ (s : State) (c : Config) (f : List Byte) (v : Bool),
    (s.writeResult (decodeFrame c f v)).res = valueOf (decodeFrame c f v)) ∧
  (∀ s : State, ResInv s → s.resStatus = .none → s.res = ⟨.none, s.cfg.cmdUnknown, []⟩)

/-- 40_common.md R103. -/
def Obligations.ChecksumAccumulatorAgrees : Prop := ∀ f : List Byte, cs8Acc 0 f = cs8 f

/-- 10_state.md R34, with the codes of `LAST_EVT` (R21) and of `RES_STATUS` (R22) written out. -/
def Obligations.StatusWordLayout : Prop :=
  ∀ s : State,
    (statusWord s).extractLsb' 0 3 =
      (match s.lastEvt with
        | .cont => 0
        | .accept => 1
        | .desync => 2
        | .checksumError => 3
        | .dropped => 4
        | .done => 5
        | .illegal => 6
        | .none => 7) ∧
    (statusWord s).extractLsb' 3 2 =
      (match s.resStatus with
        | .none => 0
        | .ok => 1
        | .malformed => 2
        | .badChecksum => 3) ∧
    (statusWord s).getLsbD 5 = s.frmOvf ∧ (statusWord s).extractLsb' 6 10 = 0 ∧
    (statusWord s).extractLsb' 0 3 = eventCode s.lastEvt ∧
    (statusWord s).extractLsb' 3 2 = statusCode s.resStatus

/-! ## decode_frame and segment_decode -/

/-- 60_exceptions.md R207, with the function of 41_frame_codec.md R120: the checks in their order. -/
def Obligations.DecodeFrameChecksInOrder : Prop :=
  (∀ (c : Config) (f : List Byte) (v : Bool), f.length < 2 → c.shortInner = .unknown →
    decodeFrame c f v = ⟨.malformed, c.cmdUnknown, []⟩) ∧
  (∀ (c : Config) (f : List Byte) (v : Bool) (t l : Byte), f[0]? = some t → f[1]? = some l →
    decodeFrame c f v =
      if (l.toNat : Int) ≠ (f.length : Int) - 2 - (if v then 1 else 0) then
        ⟨.malformed, c.cmdUnknown, []⟩
      else if v = true ∧ f.getLast? ≠ some (cs8 f.dropLast) then
        ⟨.badChecksum, c.cmdBadChecksum, []⟩
      else if t = c.cmdWifiSettings ∨ t = c.cmdCustom then
        match segmentDecode f 2 (f.length - (if v then 1 else 0)) with
        | none => ⟨.malformed, c.cmdUnknown, []⟩
        | some segs => ⟨.ok, t, segs⟩
      else ⟨.ok, t, []⟩) ∧
  (∀ (v : Bool) (s : State), s.frmOvf = true → ∃ t, exec (.fdec v) s = .next t ∧
    t.resStatus = .malformed ∧ t.resCmd = s.cfg.cmdUnknown ∧ t.resNseg = 0)

/-- 41_frame_codec.md R122. -/
def Obligations.ShortInputFollowsTheParameter : Prop :=
  ∀ (c : Config) (f : List Byte) (v : Bool), f.length < 2 →
    (c.shortInner = .unknown → decodeFrame c f v = ⟨.malformed, c.cmdUnknown, []⟩) ∧
    (c.shortInner = .cmdOnly → ∀ t, f = [t] → v = false → decodeFrame c f v = ⟨.ok, t, []⟩) ∧
    (c.shortInner = .cmdOnly → (∀ t, ¬ (f = [t] ∧ v = false)) →
      decodeFrame c f v = ⟨.malformed, c.cmdUnknown, []⟩)

/-- 41_frame_codec.md R123. -/
def Obligations.WrongDeclaredLengthIsMalformed : Prop :=
  ∀ (c : Config) (f : List Byte) (v : Bool) (l : Byte), f[1]? = some l →
    ((l.toNat : Int) ≠ (f.length : Int) - 2 - (if v then 1 else 0) →
      decodeFrame c f v = ⟨.malformed, c.cmdUnknown, []⟩) ∧
    (v = true → f.length = 2 → decodeFrame c f v = ⟨.malformed, c.cmdUnknown, []⟩) ∧
    (258 + (if v then 1 else 0) ≤ f.length → decodeFrame c f v = ⟨.malformed, c.cmdUnknown, []⟩)

/-- 41_frame_codec.md R124, R203 of 60_exceptions.md, for every single-byte change of a frame that passed,
not only a bit flip (90_conflicts.md C2). -/
def Obligations.ChangedByteOfACheckedFrameIsDetected : Prop :=
  ∀ (c : Config) (f : List Byte) (j : Nat) (b : Byte),
    (decodeFrame c f true).status = .ok → j < f.length → f[j]? ≠ some b →
    decodeFrame c (f.set j b) true =
      if j = 1 then ⟨.malformed, c.cmdUnknown, []⟩ else ⟨.badChecksum, c.cmdBadChecksum, []⟩

/-- 40_common.md R106, and 41_frame_codec.md R126 for a frame whose length and checksum are right. -/
def Obligations.SingleValueFrameGivesItsTag : Prop :=
  (∀ (c : Config) (t : Byte), isMulti c t = true ↔ t = c.cmdWifiSettings ∨ t = c.cmdCustom) ∧
  ∀ (c : Config) (t : Byte) (payload : List Byte) (v : Bool), payload.length ≤ 255 →
    (isMulti c t = false → decodeFrame c (commandFrame t payload v) v = ⟨.ok, t, []⟩) ∧
    (c.wf = true →
      decodeFrame c (commandFrame c.cmdUnknown payload v) v = ⟨.ok, c.cmdUnknown, []⟩ ∧
      decodeFrame c (commandFrame c.cmdBadChecksum payload v) v = ⟨.ok, c.cmdBadChecksum, []⟩)

/-- 41_frame_codec.md R128. -/
def Obligations.FailingResultsCarryNoData : Prop :=
  ∀ (c : Config) (f : List Byte) (v : Bool),
    ((decodeFrame c f v).status ≠ .ok → (decodeFrame c f v).data = []) ∧
    ((decodeFrame c f v).data ≠ [] →
      (decodeFrame c f v).status = .ok ∧ isMulti c (decodeFrame c f v).command = true)

/-- 42_segment_decoder.md R150, R152, R157: one turn of the decoder's loop, inside the sequence. -/
def Obligations.SegmentDecoderTakesOneSegmentATurn : Prop :=
  ∀ (f : List Byte) (c b : Nat), b ≤ f.length →
    (b ≤ c → segmentDecode f c b = some []) ∧
    (c < b → ∃ n, f[c]? = some n ∧
      segmentDecode f c b =
        if c + 1 + n.toNat > b then none
        else (segmentDecode f (c + 1 + n.toNat) b).map (fun segs => slice f (c + 1) (c + 1 + n.toNat) :: segs))

/-- 42_segment_decoder.md R153. -/
def Obligations.SegmentsTileThePayload : Prop :=
  ∀ (f : List Byte) (b : Nat) (segs : List (List Byte)), 2 ≤ b → b ≤ f.length → b - 2 ≤ 255 →
    segmentDecode f 2 b = some segs →
    (segs.map (fun seg => 1 + seg.length)).sum = b - 2 ∧ segs.length ≤ b - 2 ∧
    (segs ≠ [] → segs.flatten.length ≤ 254) ∧ (segs = [] → segs.flatten.length = 0)

/-- 42_segment_decoder.md R155. -/
def Obligations.FramingViolationsAreExactlyTheOverruns : Prop :=
  ∀ (f : List Byte) (b : Nat), 2 ≤ b → b ≤ f.length →
    (segmentDecode f 2 b = none ↔ ∃ (segs : List (List Byte)) (n : Byte),
      (∀ seg ∈ segs, seg.length ≤ 255) ∧ 2 + (packSegments segs).length < b ∧
      slice f 2 (2 + (packSegments segs).length) = packSegments segs ∧
      f[2 + (packSegments segs).length]? = some n ∧
      2 + (packSegments segs).length + 1 + n.toNat > b) ∧
    (∀ segs : List (List Byte), (∀ seg ∈ segs, seg.length ≤ 255) →
      2 + (packSegments segs).length + 1 = b →
      slice f 2 (2 + (packSegments segs).length) = packSegments segs →
      f[2 + (packSegments segs).length]? = some 0 → segmentDecode f 2 b = some (segs ++ [[]]))

/-- 30_encoding.md R72, R75, R76, 41_frame_codec.md R125: the frames of a multi-segment command that decode
to given segments are exactly the one frame that packs them. -/
def Obligations.MultiSegmentFramesAreExactlyThePackedOnes : Prop :=
  ∀ (c : Config) (t : Byte) (segs : List (List Byte)) (f : List Byte) (v : Bool),
    isMulti c t = true → 2 ≤ f.length →
    (decodeFrame c f v = ⟨.ok, t, segs⟩ ↔
      f = commandFrame t (packSegments segs) v ∧ (packSegments segs).length ≤ 255)

/-- 41_frame_codec.md R129 to R132, 30_encoding.md R87: whatever bytes are loaded after `FCLR`, however
many, `FDEC` gives `decode_frame` of all of them, and leaves the synchronizer alone. -/
def Obligations.LoadedFrameIsDecodedWhateverItsLength : Prop :=
  ∀ (s : State) (g : List Byte) (v : Bool), ∃ t,
    execAll (.fclr :: floads g ++ [.fdec v]) s = .next t ∧
    t.res = valueOf (decodeFrame s.cfg g v) ∧ t.lastEvt = .done ∧
    t.frmLen.toNat = min g.length 258 ∧ (t.frmOvf = true ↔ 258 < g.length) ∧ SameSync s t

/-- 70_reset_and_hazards.md R236. -/
def Obligations.LoadsWithoutClearAreConcatenated : Prop :=
  ∀ (s : State) (g : List Byte) (v : Bool), s.frmOvf = false → s.frmLen.toNat + g.length ≤ 258 →
    ∃ t u, execAll (floads g) s = .next t ∧ t.frame = s.frame ++ g ∧
      exec (.fdec v) t = .next u ∧ u.res = valueOf (decodeFrame s.cfg (s.frame ++ g) v) ∧
      u.frame = s.frame ++ g

/-! ## The stream synchronizer -/

/-- 43_stream_sync.md R171, R172. -/
def Obligations.PreambleAndVersionAreChecked : Prop :=
  ∀ (d : Byte) (s : State),
    (s.syncPos.toNat ≤ 5 → exec (.feed d) s = .next
      (if [0x49, 0x4D, 0x50, 0x52, 0x4F, 0x56][s.syncPos.toNat]? = some d then
        { s with
          syncHist := s.syncHist.write s.syncPos.toNat d
          syncPos := BitVec.ofNat 9 (s.syncPos.toNat + 1)
          lastEvt := .cont }
      else { s with syncPos := 0, lastEvt := .desync })) ∧
    (s.syncPos.toNat = 6 → exec (.feed d) s = .next
      (if d = s.cfg.version then
        { s with syncHist := s.syncHist.write 6 d, syncPos := 7, lastEvt := .cont }
      else { s with syncPos := 0, lastEvt := .desync }))

/-- 43_stream_sync.md R173, R174. -/
def Obligations.HeaderAndPayloadAreBuffered : Prop :=
  ∀ (d : Byte) (s : State),
    (s.syncPos.toNat = 7 ∨ s.syncPos.toNat = 8 ∨
      (9 ≤ s.syncPos.toNat ∧ s.syncPos.toNat ≤ 8 + (s.readBuf .syncHist 8).toNat)) →
    exec (.feed d) s = .next
      { s with
        syncHist := s.syncHist.write s.syncPos.toNat d
        syncPos := BitVec.ofNat 9 (s.syncPos.toNat + 1)
        lastEvt := .cont }

/-- 43_stream_sync.md R175, R176, R177. -/
def Obligations.ChecksumPositionEndsTheFrame : Prop :=
  ∀ (d : Byte) (s : State), s.syncPos.toNat = 9 + (s.readBuf .syncHist 8).toNat →
    (cs8 s.history ≠ d → exec (.feed d) s = .next { s with syncPos := 0, lastEvt := .checksumError }) ∧
    (cs8 s.history = d → s.readBuf .syncHist 7 = s.cfg.typeRpc →
      ∃ t, exec (.feed d) s = .next t ∧ t.lastEvt = .accept ∧ t.syncPos = 0 ∧
        t.res = valueOf (decodeFrame s.cfg
          (s.readRange .syncHist 9 (s.readBuf .syncHist 8).toNat) false)) ∧
    (cs8 s.history = d → s.readBuf .syncHist 7 ≠ s.cfg.typeRpc →
      exec (.feed d) s = .next { s with syncPos := 0, lastEvt := .dropped })

/-- 43_stream_sync.md R178. -/
def Obligations.BeyondTheChecksumPositionDesyncs : Prop :=
  ∀ (d : Byte) (s : State),
    (9 + (s.readBuf .syncHist 8).toNat < s.syncPos.toNat →
      exec (.feed d) s = .next { s with syncPos := 0, lastEvt := .desync }) ∧
    (SyncInv s → ¬ 9 + (s.readBuf .syncHist 8).toNat < s.syncPos.toNat)

/-- 43_stream_sync.md R182. -/
def Obligations.OnlyAByteAtPositionZeroStartsAFrame : Prop :=
  (∀ (d : Byte) (s t : State), exec (.feed d) s = .next t → t.syncPos = 1 → s.syncPos = 0) ∧
  (∀ s : State, 1 ≤ s.syncPos.toNat → s.syncPos.toNat ≤ 5 →
    exec (.feed 0x49) s = .next { s with syncPos := 0, lastEvt := .desync }) ∧
  (∀ s : State, s.syncPos.toNat = 6 → s.cfg.version ≠ 0x49 →
    exec (.feed 0x49) s = .next { s with syncPos := 0, lastEvt := .desync })

/-- 10_state.md R29, R30, 60_exceptions.md R211: the history is exactly the bytes fed since the frame began,
and every outcome but `CONTINUE` begins anew. -/
def Obligations.HistoryHoldsTheBytesOfTheFrame : Prop :=
  ∀ (d : Byte) (s : State), ∃ t, exec (.feed d) s = .next t ∧
    (t.lastEvt = .cont → t.history = s.history ++ [d]) ∧
    (t.lastEvt ≠ .cont → t.history = [] ∧ t.syncState = .preamble 0)

/-- 43_stream_sync.md R174, 70_reset_and_hazards.md R238: once the length byte `n` is in, `n` bytes are
consumed without inspection. -/
def Obligations.PayloadBytesAreSwallowedUninspected : Prop :=
  ∀ (s : State) (bs : List Byte), s.syncPos.toNat = 9 →
    bs.length = (s.readBuf .syncHist 8).toNat →
    ∃ t, execAll (feeds bs) s = .next t ∧ t.history = s.history ++ bs ∧
      t.syncState = .checksum ∧ SameBank s t

/-- 30_encoding.md R70, R71, R79, 43_stream_sync.md R175 to R180: a whole stream frame, fed from position 0,
for every type and payload: delivered, dropped or rejected. -/
def Obligations.WholeStreamFrameIsDelivered : Prop :=
  ∀ (s : State) (type : Byte) (payload : List Byte), s.syncPos = 0 → payload.length ≤ 255 →
    (∃ t, execAll (feeds (streamFrame s.cfg type payload)) s = .next t ∧ t.syncPos = 0 ∧
      SameFrameBuffer s t ∧
      (type = s.cfg.typeRpc → t.lastEvt = .accept ∧
        t.res = valueOf (decodeFrame s.cfg payload false)) ∧
      (type ≠ s.cfg.typeRpc → t.lastEvt = .dropped ∧ SameBank s t)) ∧
    (∀ b, b ≠ cs8 (streamBody s.cfg type payload) →
      ∃ t, execAll (feeds (streamBody s.cfg type payload ++ [b])) s = .next t ∧ t.syncPos = 0 ∧
        t.lastEvt = .checksumError ∧ SameBank s t ∧ SameFrameBuffer s t)

/-- 43_stream_sync.md R183: the machine of named states, with a running checksum in place of the history,
gives the result of every `FEED`. -/
def Obligations.NamedStateMachineRefinesTheSynchronizer : Prop :=
  (∀ s : State, s.syncPos = 0 → CompactMatches compactStart s) ∧
  (∀ (d : Byte) (s : State) (m : CompactSync), SyncInv s → CompactMatches m s →
    ∃ t, exec (.feed d) s = .next t ∧
      t = s.afterFeed d (compactFeed s.cfg d m).1 ∧
      CompactMatches (compactFeed s.cfg d m).2 t)

/-! ## Invariants -/

/-- 10_state.md R30, 43_stream_sync.md R171, R172. That an entry is written when it is listed is the model's
form (log 8). -/
def Obligations.StepKeepsTheSynchronizerInvariant : Prop :=
  ∀ s t : State, SyncInv s → step s = .next t → SyncInv t

/-- 10_state.md R31, R32, R33. That an entry is written when it is listed is the model's form (log 8). -/
def Obligations.StepKeepsTheFrameBufferInvariant : Prop :=
  ∀ s t : State, FrameInv s → step s = .next t → FrameInv t

/-- 10_state.md R22 to R27, 42_segment_decoder.md R153. That an entry is written when it is listed is the model's
form (log 8). -/
def Obligations.StepKeepsTheResultBankInvariant : Prop :=
  ∀ s t : State, ResInv s → step s = .next t → ResInv t

/-- 20_memory.md R50, R57: no command writes outside a buffer, and every buffer keeps its canonical form, which
is the model's (log 8). -/
def Obligations.StepKeepsTheBuffersInBounds : Prop :=
  ∀ s t : State, BufInv s → step s = .next t → BufInv t

/-- 10_state.md R37: the block meets its invariants right after reset. -/
def Obligations.ResetMeetsTheInvariants : Prop := ∀ c : Config, Inv (State.resetWith c)

/-- 10_state.md R39. -/
def Obligations.StepKeepsTheParameters : Prop := ∀ s t : State, step s = .next t → t.cfg = s.cfg

/-- 10_state.md R29, R31, R38, 20_memory.md R57: what stands in entries the block has not written, or no
longer counts, changes nothing it does. -/
def Obligations.HiddenEntriesNeverMatter : Prop :=
  ∀ (i : Instr) (s s' : State), SameVisible s s' →
    ∃ t t', exec i s = .next t ∧ exec i s' = .next t' ∧ SameVisible t t'

/-! ## The ports -/

/-- 10_state.md R25, R26, R35: reading the indexed ports gives the descriptors and the bytes of the current
result. A read as one of the host's listed actions, and the field that holds what it returned, are the model's
form (log 5, log 9). -/
def Obligations.PortReadsReturnTheResult : Prop :=
  ∀ (s : State) (rest : List PortInput), s.cfg.wf = true → ResInv s →
    (∀ idx : Byte, s.inputs = .readDesc idx :: rest → idx.toNat < s.resNseg.toNat →
      ∃ t, step s = .next t ∧
        t.lastRead = .desc (s.readBuf .resSegOff idx.toNat) (s.readBuf .resSegLen idx.toNat)) ∧
    (∀ (idx : Byte) (i j : Nat) (b : Byte), s.inputs = .readData idx :: rest →
      i < s.resNseg.toNat → (s.segment i)[j]? = some b →
      idx.toNat = (s.readBuf .resSegOff i).toNat + j →
      ∃ t, step s = .next t ∧ t.lastRead = .data b)

/-- 10_state.md R35, R38: a read of an unspecified entry returns the next free byte, a fresh one each time.
How the free bytes are numbered is the model's choice (log 9), and so is a read as one of the host's listed
actions (log 5). -/
def Obligations.UnspecifiedReadsAreFreshFreeBytes : Prop :=
  ∀ (s : State) (rest : List PortInput) (idx : Byte), s.cfg.wf = true →
    (s.inputs = .readDesc idx :: rest → s.resNseg.toNat ≤ idx.toNat ∨ idx = 255 →
      ∃ t, step s = .next t ∧
        t.lastRead = .desc (Config.freeByte s.draws) (Config.freeByte (s.draws + 1)) ∧
        t.draws = s.draws + 2) ∧
    (s.inputs = .readData idx :: rest → s.dataTotal ≤ idx.toNat ∨ 254 ≤ idx.toNat →
      ∃ t, step s = .next t ∧ t.lastRead = .data (Config.freeByte s.draws) ∧
        t.draws = s.draws + 1)

/-- 10_state.md R35: no output read changes any state of the block. That a read leaves the level of `evt_valid`
as it is is the model's choice (log 6), since the spec gives the pulse no length. So is what it does to the
model's own fields, the host's list (log 5) and its reads and draws (log 9), and that `rst` leaves these alone
(log 11). -/
def Obligations.HostActionsKeepToTheirSide : Prop :=
  (∀ (s : State) (rest : List PortInput) (idx : Byte), s.cfg.wf = true →
    s.inputs = .readDesc idx :: rest ∨ s.inputs = .readData idx :: rest →
    ∃ t, step s = .next t ∧
      t = { s with inputs := rest, lastRead := t.lastRead, draws := t.draws }) ∧
  (∀ (s : State) (rest : List PortInput), s.cfg.wf = true → s.inputs = .rst :: rest →
    ∃ t, step s = .next t ∧ t.inputs = rest ∧ t.lastRead = s.lastRead ∧ t.draws = s.draws)
end

