-- ==== Sys2Proof/Laws/Memory.lean ====
section
/-!
SUPPORT. The laws of one buffer: reading after writing, and that every operation keeps the canonical form
and the index range.
-/

namespace Sys2Proof.Machine

@[simp] theorem Memory.get?_nil (a : Nat) : Memory.get? [] a = none := rfl

theorem Memory.get?_cons (i : Nat) (b : Byte) (m : Memory) (a : Nat) :
    Memory.get? ((i, b) :: m) a = if i = a then some b else m.get? a := rfl

@[simp] theorem Memory.get?_write_self (m : Memory) (a : Nat) (b : Byte) :
    (m.write a b).get? a = some b := by
  induction m with
  | nil => simp [Memory.write, Memory.get?]
  | cons x m ih =>
    obtain ⟨i, y⟩ := x
    simp only [Memory.write]
    split
    · simp [Memory.get?_cons]
    · split
      · simp [Memory.get?_cons]
      · rw [Memory.get?_cons, if_neg (by omega), ih]

theorem Memory.get?_write_other (m : Memory) {a a' : Nat} (b : Byte) (h : a' ≠ a) :
    (m.write a b).get? a' = m.get? a' := by
  induction m with
  | nil => simp [Memory.write, Memory.get?_cons, h.symm]
  | cons x m ih =>
    obtain ⟨i, y⟩ := x
    simp only [Memory.write]
    split
    · rw [Memory.get?_cons, if_neg h.symm]
    · split
      · subst_vars
        rw [Memory.get?_cons, Memory.get?_cons, if_neg h.symm, if_neg h.symm]
      · rw [Memory.get?_cons, Memory.get?_cons, ih]

/-- The canonical form as a chain. -/
theorem Memory.wf_cons (x : Host.Cell) (m : Memory) :
    Memory.wf (x :: m) = true ↔ (∀ y ∈ m.head?, x.1 < y.1) ∧ m.wf = true := by
  cases m with
  | nil => simp [Memory.wf]
  | cons y m => simp [Memory.wf]

theorem Memory.head?_write (m : Memory) (a : Nat) (b : Byte) (y : Host.Cell)
    (h : y ∈ (m.write a b).head?) : y.1 = a ∨ y ∈ m.head? := by
  cases m with
  | nil => simp [Memory.write] at h; simp [← h]
  | cons x m =>
    obtain ⟨i, z⟩ := x
    simp only [Memory.write] at h
    split at h
    · simp at h; simp [← h]
    · split at h
      · simp at h; simp [← h]
      · simp at h; simp [← h]

theorem Memory.wf_write (m : Memory) (a : Nat) (b : Byte) (h : m.wf = true) :
    (m.write a b).wf = true := by
  induction m with
  | nil => rfl
  | cons x m ih =>
    obtain ⟨i, z⟩ := x
    have hm := (Memory.wf_cons _ _).1 h
    simp only [Memory.write]
    split
    · exact (Memory.wf_cons _ _).2 ⟨by simpa, h⟩
    · split
      · subst_vars
        exact (Memory.wf_cons _ _).2 hm
      · refine (Memory.wf_cons _ _).2 ⟨fun y hy => ?_, ih hm.2⟩
        rcases Memory.head?_write m a b y hy with h1 | h1
        · omega
        · exact hm.1 y h1

theorem Memory.below_write (m : Memory) (a n : Nat) (b : Byte) (h : m.below n = true) (ha : a < n) :
    (m.write a b).below n = true := by
  induction m with
  | nil => simp [Memory.write, Memory.below, ha]
  | cons x m ih =>
    obtain ⟨i, z⟩ := x
    simp only [Memory.below, List.all_cons, Bool.and_eq_true, decide_eq_true_eq] at h ih
    simp only [Memory.write]
    split
    · simp [Memory.below, ha, h.1, h.2]
    · split
      · simp [Memory.below, ha, h.2]
      · simp [Memory.below, h.1, ih h.2]

theorem Memory.get?_ofBytesFrom (bs : List Byte) (k a : Nat) :
    (Memory.ofBytesFrom k bs).get? a = if k ≤ a then bs[a - k]? else none := by
  induction bs generalizing k with
  | nil => simp [Memory.ofBytesFrom]
  | cons b bs ih =>
    simp only [Memory.ofBytesFrom, Memory.get?_cons, ih]
    rcases Nat.lt_trichotomy k a with h | h | h
    · rw [if_neg (by omega), if_pos (by omega), if_pos (by omega),
        show a - k = (a - (k + 1)) + 1 by omega, List.getElem?_cons_succ]
    · subst h; simp
    · rw [if_neg (by omega), if_neg (by omega), if_neg (by omega)]

@[simp] theorem Memory.get?_ofBytes (bs : List Byte) (a : Nat) :
    (Memory.ofBytes bs).get? a = bs[a]? := by
  simp [Memory.ofBytes, Memory.get?_ofBytesFrom]

theorem Memory.wf_ofBytesFrom (bs : List Byte) (k : Nat) : (Memory.ofBytesFrom k bs).wf = true := by
  induction bs generalizing k with
  | nil => rfl
  | cons b bs ih =>
    refine (Memory.wf_cons _ _).2 ⟨?_, ih _⟩
    cases bs <;> simp [Memory.ofBytesFrom]

theorem Memory.wf_ofBytes (bs : List Byte) : (Memory.ofBytes bs).wf = true :=
  Memory.wf_ofBytesFrom bs 0

theorem Memory.below_ofBytesFrom (bs : List Byte) (k n : Nat) (h : k + bs.length ≤ n) :
    (Memory.ofBytesFrom k bs).below n = true := by
  induction bs generalizing k with
  | nil => rfl
  | cons b bs ih =>
    simp only [List.length_cons] at h
    have := ih (k + 1) (by omega)
    simp only [Memory.below] at this
    simp [Memory.ofBytesFrom, Memory.below, this]; omega

theorem Memory.below_ofBytes (bs : List Byte) (n : Nat) (h : bs.length ≤ n) :
    (Memory.ofBytes bs).below n = true :=
  Memory.below_ofBytesFrom bs 0 n (by omega)

end Sys2Proof.Machine
end

