-- ==== Sys2Proof/Laws/State.lean ====
section
/-!
SUPPORT. What each named update of `State` does to each field, so that no proof unfolds a record update.
-/

namespace Sys2Proof.Machine

@[simp] theorem State.report_cfg (s : State) (e : Event) :
    (s.report e).cfg = s.cfg := rfl
@[simp] theorem State.report_syncPos (s : State) (e : Event) :
    (s.report e).syncPos = s.syncPos := rfl
@[simp] theorem State.report_syncHist (s : State) (e : Event) :
    (s.report e).syncHist = s.syncHist := rfl
@[simp] theorem State.report_frmBuf (s : State) (e : Event) :
    (s.report e).frmBuf = s.frmBuf := rfl
@[simp] theorem State.report_frmLen (s : State) (e : Event) :
    (s.report e).frmLen = s.frmLen := rfl
@[simp] theorem State.report_frmOvf (s : State) (e : Event) :
    (s.report e).frmOvf = s.frmOvf := rfl
@[simp] theorem State.report_lastEvt (s : State) (e : Event) :
    (s.report e).lastEvt = e := rfl
@[simp] theorem State.report_resStatus (s : State) (e : Event) :
    (s.report e).resStatus = s.resStatus := rfl
@[simp] theorem State.report_resCmd (s : State) (e : Event) :
    (s.report e).resCmd = s.resCmd := rfl
@[simp] theorem State.report_resNseg (s : State) (e : Event) :
    (s.report e).resNseg = s.resNseg := rfl
@[simp] theorem State.report_resSegOff (s : State) (e : Event) :
    (s.report e).resSegOff = s.resSegOff := rfl
@[simp] theorem State.report_resSegLen (s : State) (e : Event) :
    (s.report e).resSegLen = s.resSegLen := rfl
@[simp] theorem State.report_resData (s : State) (e : Event) :
    (s.report e).resData = s.resData := rfl
@[simp] theorem State.report_evtValid (s : State) (e : Event) :
    (s.report e).evtValid = s.evtValid := rfl
@[simp] theorem State.report_inputs (s : State) (e : Event) :
    (s.report e).inputs = s.inputs := rfl
@[simp] theorem State.report_lastRead (s : State) (e : Event) :
    (s.report e).lastRead = s.lastRead := rfl
@[simp] theorem State.report_draws (s : State) (e : Event) :
    (s.report e).draws = s.draws := rfl

@[simp] theorem State.restartSync_cfg (s : State) :
    (s.restartSync).cfg = s.cfg := rfl
@[simp] theorem State.restartSync_syncPos (s : State) :
    (s.restartSync).syncPos = 0 := rfl
@[simp] theorem State.restartSync_syncHist (s : State) :
    (s.restartSync).syncHist = s.syncHist := rfl
@[simp] theorem State.restartSync_frmBuf (s : State) :
    (s.restartSync).frmBuf = s.frmBuf := rfl
@[simp] theorem State.restartSync_frmLen (s : State) :
    (s.restartSync).frmLen = s.frmLen := rfl
@[simp] theorem State.restartSync_frmOvf (s : State) :
    (s.restartSync).frmOvf = s.frmOvf := rfl
@[simp] theorem State.restartSync_lastEvt (s : State) :
    (s.restartSync).lastEvt = s.lastEvt := rfl
@[simp] theorem State.restartSync_resStatus (s : State) :
    (s.restartSync).resStatus = s.resStatus := rfl
@[simp] theorem State.restartSync_resCmd (s : State) :
    (s.restartSync).resCmd = s.resCmd := rfl
@[simp] theorem State.restartSync_resNseg (s : State) :
    (s.restartSync).resNseg = s.resNseg := rfl
@[simp] theorem State.restartSync_resSegOff (s : State) :
    (s.restartSync).resSegOff = s.resSegOff := rfl
@[simp] theorem State.restartSync_resSegLen (s : State) :
    (s.restartSync).resSegLen = s.resSegLen := rfl
@[simp] theorem State.restartSync_resData (s : State) :
    (s.restartSync).resData = s.resData := rfl
@[simp] theorem State.restartSync_evtValid (s : State) :
    (s.restartSync).evtValid = s.evtValid := rfl
@[simp] theorem State.restartSync_inputs (s : State) :
    (s.restartSync).inputs = s.inputs := rfl
@[simp] theorem State.restartSync_lastRead (s : State) :
    (s.restartSync).lastRead = s.lastRead := rfl
@[simp] theorem State.restartSync_draws (s : State) :
    (s.restartSync).draws = s.draws := rfl

@[simp] theorem State.pushHist_cfg (s : State) (d : Byte) :
    (s.pushHist d).cfg = s.cfg := rfl
@[simp] theorem State.pushHist_syncPos (s : State) (d : Byte) :
    (s.pushHist d).syncPos = s.syncPos + 1 := rfl
@[simp] theorem State.pushHist_syncHist (s : State) (d : Byte) :
    (s.pushHist d).syncHist = s.syncHist.write s.syncPos.toNat d := rfl
@[simp] theorem State.pushHist_frmBuf (s : State) (d : Byte) :
    (s.pushHist d).frmBuf = s.frmBuf := rfl
@[simp] theorem State.pushHist_frmLen (s : State) (d : Byte) :
    (s.pushHist d).frmLen = s.frmLen := rfl
@[simp] theorem State.pushHist_frmOvf (s : State) (d : Byte) :
    (s.pushHist d).frmOvf = s.frmOvf := rfl
@[simp] theorem State.pushHist_lastEvt (s : State) (d : Byte) :
    (s.pushHist d).lastEvt = s.lastEvt := rfl
@[simp] theorem State.pushHist_resStatus (s : State) (d : Byte) :
    (s.pushHist d).resStatus = s.resStatus := rfl
@[simp] theorem State.pushHist_resCmd (s : State) (d : Byte) :
    (s.pushHist d).resCmd = s.resCmd := rfl
@[simp] theorem State.pushHist_resNseg (s : State) (d : Byte) :
    (s.pushHist d).resNseg = s.resNseg := rfl
@[simp] theorem State.pushHist_resSegOff (s : State) (d : Byte) :
    (s.pushHist d).resSegOff = s.resSegOff := rfl
@[simp] theorem State.pushHist_resSegLen (s : State) (d : Byte) :
    (s.pushHist d).resSegLen = s.resSegLen := rfl
@[simp] theorem State.pushHist_resData (s : State) (d : Byte) :
    (s.pushHist d).resData = s.resData := rfl
@[simp] theorem State.pushHist_evtValid (s : State) (d : Byte) :
    (s.pushHist d).evtValid = s.evtValid := rfl
@[simp] theorem State.pushHist_inputs (s : State) (d : Byte) :
    (s.pushHist d).inputs = s.inputs := rfl
@[simp] theorem State.pushHist_lastRead (s : State) (d : Byte) :
    (s.pushHist d).lastRead = s.lastRead := rfl
@[simp] theorem State.pushHist_draws (s : State) (d : Byte) :
    (s.pushHist d).draws = s.draws := rfl

@[simp] theorem State.pushFrame_cfg (s : State) (d : Byte) :
    (s.pushFrame d).cfg = s.cfg := rfl
@[simp] theorem State.pushFrame_syncPos (s : State) (d : Byte) :
    (s.pushFrame d).syncPos = s.syncPos := rfl
@[simp] theorem State.pushFrame_syncHist (s : State) (d : Byte) :
    (s.pushFrame d).syncHist = s.syncHist := rfl
@[simp] theorem State.pushFrame_frmBuf (s : State) (d : Byte) :
    (s.pushFrame d).frmBuf = s.frmBuf.write s.frmLen.toNat d := rfl
@[simp] theorem State.pushFrame_frmLen (s : State) (d : Byte) :
    (s.pushFrame d).frmLen = s.frmLen + 1 := rfl
@[simp] theorem State.pushFrame_frmOvf (s : State) (d : Byte) :
    (s.pushFrame d).frmOvf = s.frmOvf := rfl
@[simp] theorem State.pushFrame_lastEvt (s : State) (d : Byte) :
    (s.pushFrame d).lastEvt = s.lastEvt := rfl
@[simp] theorem State.pushFrame_resStatus (s : State) (d : Byte) :
    (s.pushFrame d).resStatus = s.resStatus := rfl
@[simp] theorem State.pushFrame_resCmd (s : State) (d : Byte) :
    (s.pushFrame d).resCmd = s.resCmd := rfl
@[simp] theorem State.pushFrame_resNseg (s : State) (d : Byte) :
    (s.pushFrame d).resNseg = s.resNseg := rfl
@[simp] theorem State.pushFrame_resSegOff (s : State) (d : Byte) :
    (s.pushFrame d).resSegOff = s.resSegOff := rfl
@[simp] theorem State.pushFrame_resSegLen (s : State) (d : Byte) :
    (s.pushFrame d).resSegLen = s.resSegLen := rfl
@[simp] theorem State.pushFrame_resData (s : State) (d : Byte) :
    (s.pushFrame d).resData = s.resData := rfl
@[simp] theorem State.pushFrame_evtValid (s : State) (d : Byte) :
    (s.pushFrame d).evtValid = s.evtValid := rfl
@[simp] theorem State.pushFrame_inputs (s : State) (d : Byte) :
    (s.pushFrame d).inputs = s.inputs := rfl
@[simp] theorem State.pushFrame_lastRead (s : State) (d : Byte) :
    (s.pushFrame d).lastRead = s.lastRead := rfl
@[simp] theorem State.pushFrame_draws (s : State) (d : Byte) :
    (s.pushFrame d).draws = s.draws := rfl

@[simp] theorem State.overflowFrame_cfg (s : State) :
    (s.overflowFrame).cfg = s.cfg := rfl
@[simp] theorem State.overflowFrame_syncPos (s : State) :
    (s.overflowFrame).syncPos = s.syncPos := rfl
@[simp] theorem State.overflowFrame_syncHist (s : State) :
    (s.overflowFrame).syncHist = s.syncHist := rfl
@[simp] theorem State.overflowFrame_frmBuf (s : State) :
    (s.overflowFrame).frmBuf = s.frmBuf := rfl
@[simp] theorem State.overflowFrame_frmLen (s : State) :
    (s.overflowFrame).frmLen = s.frmLen := rfl
@[simp] theorem State.overflowFrame_frmOvf (s : State) :
    (s.overflowFrame).frmOvf = true := rfl
@[simp] theorem State.overflowFrame_lastEvt (s : State) :
    (s.overflowFrame).lastEvt = s.lastEvt := rfl
@[simp] theorem State.overflowFrame_resStatus (s : State) :
    (s.overflowFrame).resStatus = s.resStatus := rfl
@[simp] theorem State.overflowFrame_resCmd (s : State) :
    (s.overflowFrame).resCmd = s.resCmd := rfl
@[simp] theorem State.overflowFrame_resNseg (s : State) :
    (s.overflowFrame).resNseg = s.resNseg := rfl
@[simp] theorem State.overflowFrame_resSegOff (s : State) :
    (s.overflowFrame).resSegOff = s.resSegOff := rfl
@[simp] theorem State.overflowFrame_resSegLen (s : State) :
    (s.overflowFrame).resSegLen = s.resSegLen := rfl
@[simp] theorem State.overflowFrame_resData (s : State) :
    (s.overflowFrame).resData = s.resData := rfl
@[simp] theorem State.overflowFrame_evtValid (s : State) :
    (s.overflowFrame).evtValid = s.evtValid := rfl
@[simp] theorem State.overflowFrame_inputs (s : State) :
    (s.overflowFrame).inputs = s.inputs := rfl
@[simp] theorem State.overflowFrame_lastRead (s : State) :
    (s.overflowFrame).lastRead = s.lastRead := rfl
@[simp] theorem State.overflowFrame_draws (s : State) :
    (s.overflowFrame).draws = s.draws := rfl

@[simp] theorem State.clearFrame_cfg (s : State) :
    (s.clearFrame).cfg = s.cfg := rfl
@[simp] theorem State.clearFrame_syncPos (s : State) :
    (s.clearFrame).syncPos = s.syncPos := rfl
@[simp] theorem State.clearFrame_syncHist (s : State) :
    (s.clearFrame).syncHist = s.syncHist := rfl
@[simp] theorem State.clearFrame_frmBuf (s : State) :
    (s.clearFrame).frmBuf = s.frmBuf := rfl
@[simp] theorem State.clearFrame_frmLen (s : State) :
    (s.clearFrame).frmLen = 0 := rfl
@[simp] theorem State.clearFrame_frmOvf (s : State) :
    (s.clearFrame).frmOvf = false := rfl
@[simp] theorem State.clearFrame_lastEvt (s : State) :
    (s.clearFrame).lastEvt = s.lastEvt := rfl
@[simp] theorem State.clearFrame_resStatus (s : State) :
    (s.clearFrame).resStatus = s.resStatus := rfl
@[simp] theorem State.clearFrame_resCmd (s : State) :
    (s.clearFrame).resCmd = s.resCmd := rfl
@[simp] theorem State.clearFrame_resNseg (s : State) :
    (s.clearFrame).resNseg = s.resNseg := rfl
@[simp] theorem State.clearFrame_resSegOff (s : State) :
    (s.clearFrame).resSegOff = s.resSegOff := rfl
@[simp] theorem State.clearFrame_resSegLen (s : State) :
    (s.clearFrame).resSegLen = s.resSegLen := rfl
@[simp] theorem State.clearFrame_resData (s : State) :
    (s.clearFrame).resData = s.resData := rfl
@[simp] theorem State.clearFrame_evtValid (s : State) :
    (s.clearFrame).evtValid = s.evtValid := rfl
@[simp] theorem State.clearFrame_inputs (s : State) :
    (s.clearFrame).inputs = s.inputs := rfl
@[simp] theorem State.clearFrame_lastRead (s : State) :
    (s.clearFrame).lastRead = s.lastRead := rfl
@[simp] theorem State.clearFrame_draws (s : State) :
    (s.clearFrame).draws = s.draws := rfl

@[simp] theorem State.writeResult_cfg (s : State) (p : ParsedCommand) :
    (s.writeResult p).cfg = s.cfg := rfl
@[simp] theorem State.writeResult_syncPos (s : State) (p : ParsedCommand) :
    (s.writeResult p).syncPos = s.syncPos := rfl
@[simp] theorem State.writeResult_syncHist (s : State) (p : ParsedCommand) :
    (s.writeResult p).syncHist = s.syncHist := rfl
@[simp] theorem State.writeResult_frmBuf (s : State) (p : ParsedCommand) :
    (s.writeResult p).frmBuf = s.frmBuf := rfl
@[simp] theorem State.writeResult_frmLen (s : State) (p : ParsedCommand) :
    (s.writeResult p).frmLen = s.frmLen := rfl
@[simp] theorem State.writeResult_frmOvf (s : State) (p : ParsedCommand) :
    (s.writeResult p).frmOvf = s.frmOvf := rfl
@[simp] theorem State.writeResult_lastEvt (s : State) (p : ParsedCommand) :
    (s.writeResult p).lastEvt = s.lastEvt := rfl
@[simp] theorem State.writeResult_resStatus (s : State) (p : ParsedCommand) :
    (s.writeResult p).resStatus = statusOf p.status := rfl
@[simp] theorem State.writeResult_resCmd (s : State) (p : ParsedCommand) :
    (s.writeResult p).resCmd = p.command := rfl
@[simp] theorem State.writeResult_resNseg (s : State) (p : ParsedCommand) :
    (s.writeResult p).resNseg = BitVec.ofNat 8 p.data.length := rfl
@[simp] theorem State.writeResult_resSegOff (s : State) (p : ParsedCommand) :
    (s.writeResult p).resSegOff = Memory.ofBytes (segOffsets 0 p.data) := rfl
@[simp] theorem State.writeResult_resSegLen (s : State) (p : ParsedCommand) :
    (s.writeResult p).resSegLen = Memory.ofBytes (p.data.map (fun seg => BitVec.ofNat 8 seg.length)) := rfl
@[simp] theorem State.writeResult_resData (s : State) (p : ParsedCommand) :
    (s.writeResult p).resData = Memory.ofBytes p.data.flatten := rfl
@[simp] theorem State.writeResult_evtValid (s : State) (p : ParsedCommand) :
    (s.writeResult p).evtValid = s.evtValid := rfl
@[simp] theorem State.writeResult_inputs (s : State) (p : ParsedCommand) :
    (s.writeResult p).inputs = s.inputs := rfl
@[simp] theorem State.writeResult_lastRead (s : State) (p : ParsedCommand) :
    (s.writeResult p).lastRead = s.lastRead := rfl
@[simp] theorem State.writeResult_draws (s : State) (p : ParsedCommand) :
    (s.writeResult p).draws = s.draws := rfl

@[simp] theorem State.withInputs_cfg (s : State) (r : List PortInput) :
    (s.withInputs r).cfg = s.cfg := rfl
@[simp] theorem State.withInputs_syncPos (s : State) (r : List PortInput) :
    (s.withInputs r).syncPos = s.syncPos := rfl
@[simp] theorem State.withInputs_syncHist (s : State) (r : List PortInput) :
    (s.withInputs r).syncHist = s.syncHist := rfl
@[simp] theorem State.withInputs_frmBuf (s : State) (r : List PortInput) :
    (s.withInputs r).frmBuf = s.frmBuf := rfl
@[simp] theorem State.withInputs_frmLen (s : State) (r : List PortInput) :
    (s.withInputs r).frmLen = s.frmLen := rfl
@[simp] theorem State.withInputs_frmOvf (s : State) (r : List PortInput) :
    (s.withInputs r).frmOvf = s.frmOvf := rfl
@[simp] theorem State.withInputs_lastEvt (s : State) (r : List PortInput) :
    (s.withInputs r).lastEvt = s.lastEvt := rfl
@[simp] theorem State.withInputs_resStatus (s : State) (r : List PortInput) :
    (s.withInputs r).resStatus = s.resStatus := rfl
@[simp] theorem State.withInputs_resCmd (s : State) (r : List PortInput) :
    (s.withInputs r).resCmd = s.resCmd := rfl
@[simp] theorem State.withInputs_resNseg (s : State) (r : List PortInput) :
    (s.withInputs r).resNseg = s.resNseg := rfl
@[simp] theorem State.withInputs_resSegOff (s : State) (r : List PortInput) :
    (s.withInputs r).resSegOff = s.resSegOff := rfl
@[simp] theorem State.withInputs_resSegLen (s : State) (r : List PortInput) :
    (s.withInputs r).resSegLen = s.resSegLen := rfl
@[simp] theorem State.withInputs_resData (s : State) (r : List PortInput) :
    (s.withInputs r).resData = s.resData := rfl
@[simp] theorem State.withInputs_evtValid (s : State) (r : List PortInput) :
    (s.withInputs r).evtValid = s.evtValid := rfl
@[simp] theorem State.withInputs_inputs (s : State) (r : List PortInput) :
    (s.withInputs r).inputs = r := rfl
@[simp] theorem State.withInputs_lastRead (s : State) (r : List PortInput) :
    (s.withInputs r).lastRead = s.lastRead := rfl
@[simp] theorem State.withInputs_draws (s : State) (r : List PortInput) :
    (s.withInputs r).draws = s.draws := rfl

@[simp] theorem State.pulse_cfg (s : State) :
    (s.pulse).cfg = s.cfg := rfl
@[simp] theorem State.pulse_syncPos (s : State) :
    (s.pulse).syncPos = s.syncPos := rfl
@[simp] theorem State.pulse_syncHist (s : State) :
    (s.pulse).syncHist = s.syncHist := rfl
@[simp] theorem State.pulse_frmBuf (s : State) :
    (s.pulse).frmBuf = s.frmBuf := rfl
@[simp] theorem State.pulse_frmLen (s : State) :
    (s.pulse).frmLen = s.frmLen := rfl
@[simp] theorem State.pulse_frmOvf (s : State) :
    (s.pulse).frmOvf = s.frmOvf := rfl
@[simp] theorem State.pulse_lastEvt (s : State) :
    (s.pulse).lastEvt = s.lastEvt := rfl
@[simp] theorem State.pulse_resStatus (s : State) :
    (s.pulse).resStatus = s.resStatus := rfl
@[simp] theorem State.pulse_resCmd (s : State) :
    (s.pulse).resCmd = s.resCmd := rfl
@[simp] theorem State.pulse_resNseg (s : State) :
    (s.pulse).resNseg = s.resNseg := rfl
@[simp] theorem State.pulse_resSegOff (s : State) :
    (s.pulse).resSegOff = s.resSegOff := rfl
@[simp] theorem State.pulse_resSegLen (s : State) :
    (s.pulse).resSegLen = s.resSegLen := rfl
@[simp] theorem State.pulse_resData (s : State) :
    (s.pulse).resData = s.resData := rfl
@[simp] theorem State.pulse_evtValid (s : State) :
    (s.pulse).evtValid = true := rfl
@[simp] theorem State.pulse_inputs (s : State) :
    (s.pulse).inputs = s.inputs := rfl
@[simp] theorem State.pulse_lastRead (s : State) :
    (s.pulse).lastRead = s.lastRead := rfl
@[simp] theorem State.pulse_draws (s : State) :
    (s.pulse).draws = s.draws := rfl

@[simp] theorem State.idle_cfg (s : State) :
    (s.idle).cfg = s.cfg := rfl
@[simp] theorem State.idle_syncPos (s : State) :
    (s.idle).syncPos = s.syncPos := rfl
@[simp] theorem State.idle_syncHist (s : State) :
    (s.idle).syncHist = s.syncHist := rfl
@[simp] theorem State.idle_frmBuf (s : State) :
    (s.idle).frmBuf = s.frmBuf := rfl
@[simp] theorem State.idle_frmLen (s : State) :
    (s.idle).frmLen = s.frmLen := rfl
@[simp] theorem State.idle_frmOvf (s : State) :
    (s.idle).frmOvf = s.frmOvf := rfl
@[simp] theorem State.idle_lastEvt (s : State) :
    (s.idle).lastEvt = s.lastEvt := rfl
@[simp] theorem State.idle_resStatus (s : State) :
    (s.idle).resStatus = s.resStatus := rfl
@[simp] theorem State.idle_resCmd (s : State) :
    (s.idle).resCmd = s.resCmd := rfl
@[simp] theorem State.idle_resNseg (s : State) :
    (s.idle).resNseg = s.resNseg := rfl
@[simp] theorem State.idle_resSegOff (s : State) :
    (s.idle).resSegOff = s.resSegOff := rfl
@[simp] theorem State.idle_resSegLen (s : State) :
    (s.idle).resSegLen = s.resSegLen := rfl
@[simp] theorem State.idle_resData (s : State) :
    (s.idle).resData = s.resData := rfl
@[simp] theorem State.idle_evtValid (s : State) :
    (s.idle).evtValid = false := rfl
@[simp] theorem State.idle_inputs (s : State) :
    (s.idle).inputs = s.inputs := rfl
@[simp] theorem State.idle_lastRead (s : State) :
    (s.idle).lastRead = s.lastRead := rfl
@[simp] theorem State.idle_draws (s : State) :
    (s.idle).draws = s.draws := rfl

@[simp] theorem State.recordRead_cfg (s : State) (r : PortRead) (k : Nat) :
    (s.recordRead r k).cfg = s.cfg := rfl
@[simp] theorem State.recordRead_syncPos (s : State) (r : PortRead) (k : Nat) :
    (s.recordRead r k).syncPos = s.syncPos := rfl
@[simp] theorem State.recordRead_syncHist (s : State) (r : PortRead) (k : Nat) :
    (s.recordRead r k).syncHist = s.syncHist := rfl
@[simp] theorem State.recordRead_frmBuf (s : State) (r : PortRead) (k : Nat) :
    (s.recordRead r k).frmBuf = s.frmBuf := rfl
@[simp] theorem State.recordRead_frmLen (s : State) (r : PortRead) (k : Nat) :
    (s.recordRead r k).frmLen = s.frmLen := rfl
@[simp] theorem State.recordRead_frmOvf (s : State) (r : PortRead) (k : Nat) :
    (s.recordRead r k).frmOvf = s.frmOvf := rfl
@[simp] theorem State.recordRead_lastEvt (s : State) (r : PortRead) (k : Nat) :
    (s.recordRead r k).lastEvt = s.lastEvt := rfl
@[simp] theorem State.recordRead_resStatus (s : State) (r : PortRead) (k : Nat) :
    (s.recordRead r k).resStatus = s.resStatus := rfl
@[simp] theorem State.recordRead_resCmd (s : State) (r : PortRead) (k : Nat) :
    (s.recordRead r k).resCmd = s.resCmd := rfl
@[simp] theorem State.recordRead_resNseg (s : State) (r : PortRead) (k : Nat) :
    (s.recordRead r k).resNseg = s.resNseg := rfl
@[simp] theorem State.recordRead_resSegOff (s : State) (r : PortRead) (k : Nat) :
    (s.recordRead r k).resSegOff = s.resSegOff := rfl
@[simp] theorem State.recordRead_resSegLen (s : State) (r : PortRead) (k : Nat) :
    (s.recordRead r k).resSegLen = s.resSegLen := rfl
@[simp] theorem State.recordRead_resData (s : State) (r : PortRead) (k : Nat) :
    (s.recordRead r k).resData = s.resData := rfl
@[simp] theorem State.recordRead_evtValid (s : State) (r : PortRead) (k : Nat) :
    (s.recordRead r k).evtValid = s.evtValid := rfl
@[simp] theorem State.recordRead_inputs (s : State) (r : PortRead) (k : Nat) :
    (s.recordRead r k).inputs = s.inputs := rfl
@[simp] theorem State.recordRead_lastRead (s : State) (r : PortRead) (k : Nat) :
    (s.recordRead r k).lastRead = r := rfl
@[simp] theorem State.recordRead_draws (s : State) (r : PortRead) (k : Nat) :
    (s.recordRead r k).draws = s.draws + k := rfl

@[simp] theorem State.offer_cfg (s : State) (w : Word) :
    (s.offer w).cfg = s.cfg := rfl
@[simp] theorem State.offer_syncPos (s : State) (w : Word) :
    (s.offer w).syncPos = s.syncPos := rfl
@[simp] theorem State.offer_syncHist (s : State) (w : Word) :
    (s.offer w).syncHist = s.syncHist := rfl
@[simp] theorem State.offer_frmBuf (s : State) (w : Word) :
    (s.offer w).frmBuf = s.frmBuf := rfl
@[simp] theorem State.offer_frmLen (s : State) (w : Word) :
    (s.offer w).frmLen = s.frmLen := rfl
@[simp] theorem State.offer_frmOvf (s : State) (w : Word) :
    (s.offer w).frmOvf = s.frmOvf := rfl
@[simp] theorem State.offer_lastEvt (s : State) (w : Word) :
    (s.offer w).lastEvt = s.lastEvt := rfl
@[simp] theorem State.offer_resStatus (s : State) (w : Word) :
    (s.offer w).resStatus = s.resStatus := rfl
@[simp] theorem State.offer_resCmd (s : State) (w : Word) :
    (s.offer w).resCmd = s.resCmd := rfl
@[simp] theorem State.offer_resNseg (s : State) (w : Word) :
    (s.offer w).resNseg = s.resNseg := rfl
@[simp] theorem State.offer_resSegOff (s : State) (w : Word) :
    (s.offer w).resSegOff = s.resSegOff := rfl
@[simp] theorem State.offer_resSegLen (s : State) (w : Word) :
    (s.offer w).resSegLen = s.resSegLen := rfl
@[simp] theorem State.offer_resData (s : State) (w : Word) :
    (s.offer w).resData = s.resData := rfl
@[simp] theorem State.offer_evtValid (s : State) (w : Word) :
    (s.offer w).evtValid = s.evtValid := rfl
@[simp] theorem State.offer_inputs (s : State) (w : Word) :
    (s.offer w).inputs = .command w :: s.inputs := rfl
@[simp] theorem State.offer_lastRead (s : State) (w : Word) :
    (s.offer w).lastRead = s.lastRead := rfl
@[simp] theorem State.offer_draws (s : State) (w : Word) :
    (s.offer w).draws = s.draws := rfl

@[simp] theorem State.applyReset_cfg (s : State) :
    (s.applyReset).cfg = s.cfg := rfl
@[simp] theorem State.applyReset_syncPos (s : State) :
    (s.applyReset).syncPos = 0 := rfl
@[simp] theorem State.applyReset_syncHist (s : State) :
    (s.applyReset).syncHist = [] := rfl
@[simp] theorem State.applyReset_frmBuf (s : State) :
    (s.applyReset).frmBuf = [] := rfl
@[simp] theorem State.applyReset_frmLen (s : State) :
    (s.applyReset).frmLen = 0 := rfl
@[simp] theorem State.applyReset_frmOvf (s : State) :
    (s.applyReset).frmOvf = false := rfl
@[simp] theorem State.applyReset_lastEvt (s : State) :
    (s.applyReset).lastEvt = .none := rfl
@[simp] theorem State.applyReset_resStatus (s : State) :
    (s.applyReset).resStatus = .none := rfl
@[simp] theorem State.applyReset_resCmd (s : State) :
    (s.applyReset).resCmd = s.cfg.cmdUnknown := rfl
@[simp] theorem State.applyReset_resNseg (s : State) :
    (s.applyReset).resNseg = 0 := rfl
@[simp] theorem State.applyReset_resSegOff (s : State) :
    (s.applyReset).resSegOff = [] := rfl
@[simp] theorem State.applyReset_resSegLen (s : State) :
    (s.applyReset).resSegLen = [] := rfl
@[simp] theorem State.applyReset_resData (s : State) :
    (s.applyReset).resData = [] := rfl
@[simp] theorem State.applyReset_evtValid (s : State) :
    (s.applyReset).evtValid = false := rfl
@[simp] theorem State.applyReset_inputs (s : State) :
    (s.applyReset).inputs = s.inputs := rfl
@[simp] theorem State.applyReset_lastRead (s : State) :
    (s.applyReset).lastRead = s.lastRead := rfl
@[simp] theorem State.applyReset_draws (s : State) :
    (s.applyReset).draws = s.draws := rfl

@[simp] theorem finish_next (s : State) : finish (.next s) = .next s.pulse := rfl

@[simp] theorem State.buf_syncHist (s : State) : s.buf .syncHist = s.syncHist := rfl
@[simp] theorem State.buf_frmBuf (s : State) : s.buf .frmBuf = s.frmBuf := rfl
@[simp] theorem State.buf_resData (s : State) : s.buf .resData = s.resData := rfl
@[simp] theorem State.buf_resSegOff (s : State) : s.buf .resSegOff = s.resSegOff := rfl
@[simp] theorem State.buf_resSegLen (s : State) : s.buf .resSegLen = s.resSegLen := rfl

end Sys2Proof.Machine
end

