-- ==== Sys2Proof/Laws/Ops.lean ====
section
/-!
SUPPORT. One lemma for each shared operation that says what it can do: block-side reads after each update,
the history and the frame after an append, the layout and the value of a written result.
-/

namespace Sys2Proof.Machine

@[simp] theorem State.length_readRange (s : State) (n : BufName) (a k : Nat) :
    (s.readRange n a k).length = k := by simp [State.readRange]

theorem State.getElem?_readRange (s : State) (n : BufName) (a k j : Nat) :
    (s.readRange n a k)[j]? = if j < k then some (s.readBuf n (a + j)) else none := by
  simp only [State.readRange, List.getElem?_map]
  split
  · rw [List.getElem?_range (by assumption)]; rfl
  · rw [List.getElem?_eq_none (by simpa using by omega)]; rfl

@[simp] theorem State.length_history (s : State) : s.history.length = s.syncPos.toNat := by
  simp [State.history]

@[simp] theorem State.length_frame (s : State) : s.frame.length = s.frmLen.toNat := by
  simp [State.frame]

theorem State.getElem?_history (s : State) (j : Nat) :
    s.history[j]? = if j < s.syncPos.toNat then some (s.readBuf .syncHist j) else none := by
  simp [State.history, State.getElem?_readRange]

theorem State.getElem?_frame (s : State) (j : Nat) :
    s.frame[j]? = if j < s.frmLen.toNat then some (s.readBuf .frmBuf j) else none := by
  simp [State.frame, State.getElem?_readRange]

/-- A block-side read depends on the buffer alone. -/
theorem State.readBuf_congr {s t : State} {n : BufName} (h : t.buf n = s.buf n) (i : Nat) :
    t.readBuf n i = s.readBuf n i := by simp [State.readBuf, h]

theorem State.readRange_congr {s t : State} {n : BufName} (h : t.buf n = s.buf n) (a k : Nat) :
    t.readRange n a k = s.readRange n a k := by
  simp [State.readRange, State.readBuf_congr h]

/-- A written entry is what a block-side read returns. -/
theorem State.readBuf_of_get? {s : State} {n : BufName} {i : Nat} {b : Byte}
    (h : (s.buf n).get? i = some b) : s.readBuf n i = b := by simp [State.readBuf, h]

theorem State.readBuf_pushHist_self (s : State) (d : Byte) :
    (s.pushHist d).readBuf .syncHist s.syncPos.toNat = d := by simp [State.readBuf]

theorem State.readBuf_pushHist_other (s : State) (d : Byte) {i : Nat} (h : i ≠ s.syncPos.toNat) :
    (s.pushHist d).readBuf .syncHist i = s.readBuf .syncHist i := by
  simp [State.readBuf, Memory.get?_write_other _ _ h]

theorem State.readBuf_pushFrame_self (s : State) (d : Byte) :
    (s.pushFrame d).readBuf .frmBuf s.frmLen.toNat = d := by simp [State.readBuf]

theorem State.readBuf_pushFrame_other (s : State) (d : Byte) {i : Nat} (h : i ≠ s.frmLen.toNat) :
    (s.pushFrame d).readBuf .frmBuf i = s.readBuf .frmBuf i := by
  simp [State.readBuf, Memory.get?_write_other _ _ h]

/-- Position and length counters do not wrap below their largest values. -/
theorem toNat_succ9 (p : BitVec 9) (h : p.toNat < 511) : (p + 1).toNat = p.toNat + 1 := by
  rw [BitVec.toNat_add, show (1 : BitVec 9).toNat = 1 from rfl]
  omega

theorem State.pos_pushHist (s : State) (d : Byte) (h : s.syncPos.toNat < 511) :
    (s.pushHist d).syncPos.toNat = s.syncPos.toNat + 1 := toNat_succ9 _ h

theorem State.len_pushFrame (s : State) (d : Byte) (h : s.frmLen.toNat < 511) :
    (s.pushFrame d).frmLen.toNat = s.frmLen.toNat + 1 := toNat_succ9 _ h

/-- An accepted stream byte is appended to the history. -/
theorem State.history_pushHist (s : State) (d : Byte) (h : s.syncPos.toNat < 511) :
    (s.pushHist d).history = s.history ++ [d] := by
  apply List.ext_getElem?
  intro j
  rw [State.getElem?_history, State.pos_pushHist s d h, List.getElem?_append, State.length_history,
    State.getElem?_history]
  rcases Nat.lt_trichotomy j s.syncPos.toNat with hj | hj | hj
  · rw [if_pos (by omega), if_pos hj, if_pos hj, State.readBuf_pushHist_other s d (by omega)]
  · rw [if_pos (by omega), if_neg (by omega), hj, State.readBuf_pushHist_self, Nat.sub_self]
    rfl
  · rw [if_neg (by omega), if_neg (by omega),
      List.getElem?_eq_none (by simp only [List.length_singleton]; omega)]

/-- A loaded byte is appended to the frame. -/
theorem State.frame_pushFrame (s : State) (d : Byte) (h : s.frmLen.toNat < 511) :
    (s.pushFrame d).frame = s.frame ++ [d] := by
  apply List.ext_getElem?
  intro j
  rw [State.getElem?_frame, State.len_pushFrame s d h, List.getElem?_append, State.length_frame,
    State.getElem?_frame]
  rcases Nat.lt_trichotomy j s.frmLen.toNat with hj | hj | hj
  · rw [if_pos (by omega), if_pos hj, if_pos hj, State.readBuf_pushFrame_other s d (by omega)]
  · rw [if_pos (by omega), if_neg (by omega), hj, State.readBuf_pushFrame_self, Nat.sub_self]
    rfl
  · rw [if_neg (by omega), if_neg (by omega),
      List.getElem?_eq_none (by simp only [List.length_singleton]; omega)]

@[simp] theorem length_segOffsets (o : Nat) (segs : List (List Byte)) :
    (segOffsets o segs).length = segs.length := by
  induction segs generalizing o with
  | nil => rfl
  | cons seg segs ih => simp [segOffsets, ih]

/-- The offset of segment `i` is the total length of the segments before it. -/
theorem getElem?_segOffsets (segs : List (List Byte)) (o i : Nat) (h : i < segs.length) :
    (segOffsets o segs)[i]? = some (BitVec.ofNat 8 (o + (segs.take i).flatten.length)) := by
  induction segs generalizing o i with
  | nil => simp at h
  | cons seg segs ih =>
    cases i with
    | zero => simp [segOffsets]
    | succ i =>
      simp only [segOffsets, List.getElem?_cons_succ]
      rw [ih _ _ (by simpa using h)]
      simp [Nat.add_assoc]

end Sys2Proof.Machine
end

