-- ==== Sys2Proof/Laws/Bytes.lean ====
section
/-!
SUPPORT. The laws of the checksum, of slices and of the wire formats' lengths.
-/

namespace Sys2Proof.Machine

theorem cs8_append (f g : List Byte) : cs8 (f ++ g) = cs8 f + cs8 g := by
  simp [cs8, BitVec.ofNat_add]

theorem cs8_singleton (b : Byte) : cs8 [b] = b := by simp [cs8]

theorem length_slice (f : List Byte) (a b : Nat) (h : b ≤ f.length) : (slice f a b).length = b - a := by
  simp [slice]; omega

theorem slice_self (f : List Byte) (a : Nat) : slice f a a = [] := by simp [slice]

theorem slice_cons {f : List Byte} {a b : Nat} {n : Byte} (h : f[a]? = some n) (hab : a < b) :
    slice f a b = n :: slice f (a + 1) b := by
  obtain ⟨hl, he⟩ := List.getElem?_eq_some_iff.1 h
  simp only [slice]
  rw [List.drop_eq_getElem_cons hl, he, show b - a = (b - (a + 1)) + 1 by omega, List.take_succ_cons]

theorem slice_split (f : List Byte) {a m b : Nat} (h1 : a ≤ m) (h2 : m ≤ b) :
    slice f a b = slice f a m ++ slice f m b := by
  simp only [slice]
  rw [show b - a = (m - a) + (b - m) by omega, List.take_add, List.drop_drop,
    show a + (m - a) = m by omega]

theorem toNat_lenByte {bs : List Byte} (h : bs.length ≤ 255) : (lenByte bs).toNat = bs.length := by
  simp [lenByte]; omega

theorem length_packSegments (segs : List (List Byte)) :
    (packSegments segs).length = (segs.map (fun seg => 1 + seg.length)).sum := by
  induction segs with
  | nil => rfl
  | cons seg segs ih => simp [packSegments, ih]; omega

theorem packSegments_append (a b : List (List Byte)) :
    packSegments (a ++ b) = packSegments a ++ packSegments b := by
  induction a with
  | nil => rfl
  | cons seg a ih => simp [packSegments, ih]

end Sys2Proof.Machine
end

