-- ==== Sys2Proof/Laws/Decode.lean ====
section
/-!
SUPPORT. The decoder and the encoder of command words, byte by byte: the operand `D` is the lower byte, and
everything else stands in the upper one (30_encoding.md R81, R82).
-/

namespace Sys2Proof.Laws

open Sys2Proof.Machine

/-- `&` acts on the two bytes of a word apart. -/
theorem word_and (h l m n : Byte) : (h ++ l) &&& (m ++ n) = (h &&& m) ++ (l &&& n) := by
  apply BitVec.eq_of_getLsbD_eq
  intro i hi
  simp only [BitVec.getLsbD_and, BitVec.getLsbD_append]
  split <;> rfl

/-- The upper byte of a word. -/
theorem extract_high (h l : Byte) : BitVec.extractLsb' 8 8 (h ++ l) = h := by
  apply BitVec.eq_of_getLsbD_eq
  intro i hi
  rw [BitVec.getLsbD_extractLsb', BitVec.getLsbD_append]
  have : ¬ 8 + i < 8 := by omega
  simp only [hi, this, decide_true, Bool.true_and, if_false, Nat.add_sub_cancel_left]

/-- The lower byte of a word. -/
theorem extract_low (h l : Byte) : BitVec.extractLsb' 0 8 (h ++ l) = l := by
  apply BitVec.eq_of_getLsbD_eq
  intro i hi
  rw [BitVec.getLsbD_extractLsb', BitVec.getLsbD_append]
  simp only [hi, Nat.zero_add, decide_true, Bool.true_and, if_true]

/-- Words are equal when both bytes are. -/
theorem word_inj (h l m n : Byte) : (h ++ l = m ++ n) ↔ h = m ∧ l = n := by
  constructor
  · intro e
    exact ⟨by rw [← extract_high h l, e, extract_high], by rw [← extract_low h l, e, extract_low]⟩
  · rintro ⟨rfl, rfl⟩; rfl

/-- Every word is two bytes. -/
theorem exists_bytes_of_word (w : Word) : ∃ h l : Byte, w = h ++ l :=
  ⟨w.extractLsb' 8 8, w.extractLsb' 0 8, by
    apply BitVec.eq_of_getLsbD_eq
    intro i hi
    simp only [BitVec.getLsbD_append, BitVec.getLsbD_extractLsb']
    by_cases h : i < 8
    · simp [h]
    · have e : 8 + (i - 8) = i := by omega
      have : i - 8 < 8 := by omega
      simp [h, this, e]⟩

/-- A row's test, byte by byte. -/
theorem spells_bytes (r : Row) (h l a b c d : Byte) (e1 : r.maskBits = a ++ b)
    (e2 : r.matchBits = c ++ d) :
    r.spells (h ++ l) = (decide (h &&& a = c) && decide (l &&& b = d)) := by
  simp only [Row.spells, e1, e2, word_and]
  rw [Bool.eq_iff_iff]; simp [word_inj]

/-- The operand `D` is the lower byte. -/
theorem dataField_bytes (h l : Byte) : dataField (h ++ l) = l := by
  unfold dataField; exact extract_low h l

/-- The words of the commands, byte by byte. -/
theorem encode_bytes (i : Instr) : encode i = (match i with
    | .nop => (0x00 : Byte) ++ (0x00 : Byte)
    | .feed d => (0x10 : Byte) ++ d
    | .srst => (0x20 : Byte) ++ (0x00 : Byte)
    | .fload d => (0x30 : Byte) ++ d
    | .fclr => (0x40 : Byte) ++ (0x00 : Byte)
    | .fdec v => (if v then (0x51 : Byte) else 0x50) ++ (0x00 : Byte)) := by
  cases i with
  | feed d => apply BitVec.eq_of_toNat_eq; revert d; decide
  | fload d => apply BitVec.eq_of_toNat_eq; revert d; decide
  | fdec v => cases v <;> decide
  | _ => decide

/-- All that decoding can give, byte by byte. -/
theorem decode_instr_bytes (h l : Byte) : (decode (h ++ l)).instr? =
    if h = 0x10 then some (.feed l)
    else if h = 0x30 then some (.fload l)
    else if l = 0 then
      (if h = 0 then some .nop
        else if h = 0x20 then some .srst
        else if h = 0x40 then some .fclr
        else if h = 0x50 then some (.fdec false)
        else if h = 0x51 then some (.fdec true)
        else none)
    else none := by
  unfold decode
  rw [spells_bytes rowNop h l 0xFF 0xFF 0 0 rfl rfl, spells_bytes rowFeed h l 0xFF 0 0x10 0 rfl rfl,
    spells_bytes rowSrst h l 0xFF 0xFF 0x20 0 rfl rfl, spells_bytes rowFload h l 0xFF 0 0x30 0 rfl rfl,
    spells_bytes rowFclr h l 0xFF 0xFF 0x40 0 rfl rfl, spells_bytes rowFdec h l 0xFE 0xFF 0x50 0 rfl rfl,
    dataField_bytes]
  have e1 : h &&& 0xFF = h := by simpa using BitVec.and_allOnes (x := h)
  have e2 : l &&& 0xFF = l := by simpa using BitVec.and_allOnes (x := l)
  have e3 : l &&& 0 = 0 := by simp
  have e4 : (h &&& 0xFE = 0x50) ↔ h = 0x50 ∨ h = 0x51 := by revert h; decide
  rw [e1, e2, e3]
  simp only [e4, decide_true, Bool.and_true, Bool.and_eq_true, decide_eq_true_eq]
  have v0 : verifyField ((0x50 : Byte) ++ (0 : Byte)) = false := by decide
  have v1 : verifyField ((0x51 : Byte) ++ (0 : Byte)) = true := by decide
  rcases Decidable.em (l = 0) with c | c
  · rw [c]
    simp only [and_true]
    by_cases p : h = 0x50
    · subst p; rw [v0]; rfl
    by_cases q : h = 0x51
    · subst q; rw [v1]; rfl
    simp only [p, q, or_self, if_false]
    by_cases a : h = 0
    · subst a; rfl
    by_cases b : h = 0x10
    · subst b; rfl
    by_cases d : h = 0x20
    · subst d; rfl
    by_cases e : h = 0x30
    · subst e; rfl
    by_cases f : h = 0x40
    · subst f; rfl
    simp only [a, b, d, e, f, if_false, if_true]
    split <;> rfl
  · simp only [c, and_false, if_false]
    split
    · rfl
    · split
      · rfl
      · split <;> rfl

end Sys2Proof.Laws
end

