-- ==== Sys2Proof/Laws/FrameCodec.lean ====
section
/-!
SUPPORT. The segment decoder and `decode_frame`: what they can answer.
-/

namespace Sys2Proof.Machine

/-- One turn of the loop of `segment_decode` (42_segment_decoder.md R150). -/
theorem segmentLoop_succ (f : List Byte) (b fuel c : Nat) :
    segmentLoop f b (fuel + 1) c =
      if c < b then
        match f[c]? with
        | none => none
        | some n =>
          if c + 1 + n.toNat > b then none
          else (segmentLoop f b fuel (c + 1 + n.toNat)).map
            (fun segs => slice f (c + 1) (c + 1 + n.toNat) :: segs)
      else some [] := rfl

/-- Turns beyond `b - c` change nothing (R157). -/
theorem segmentLoop_fuel (f : List Byte) (b : Nat) (fuel c : Nat) (h : b - c ≤ fuel) :
    segmentLoop f b fuel c = segmentLoop f b (b - c) c := by
  induction fuel using Nat.strong_induction_on generalizing c with
  | _ fuel ih =>
    by_cases hc : c < b
    · obtain ⟨k, hk⟩ : ∃ k, b - c = k + 1 := ⟨b - c - 1, by omega⟩
      obtain ⟨fuel, rfl⟩ : ∃ m, fuel = m + 1 := ⟨fuel - 1, by omega⟩
      rw [hk, segmentLoop_succ, segmentLoop_succ, if_pos hc, if_pos hc]
      cases hf : f[c]? with
      | none => rfl
      | some n =>
        simp only
        split
        · rfl
        · rw [ih fuel (by omega) _ (by omega)]
          rcases Nat.lt_or_ge k (fuel + 1) with hlt | hge
          · rw [ih k hlt (c + 1 + n.toNat) (by omega)]
          · omega
    · have : b - c = 0 := by omega
      rw [this]
      cases fuel with
      | zero => rfl
      | succ m => rw [segmentLoop_succ, if_neg hc]; rfl

/-- What `segment_decode` answers at a cursor below the boundary. -/
theorem segmentDecode_of_lt (f : List Byte) {c b : Nat} (h : c < b) :
    segmentDecode f c b =
      match f[c]? with
      | none => none
      | some n =>
        if c + 1 + n.toNat > b then none
        else (segmentDecode f (c + 1 + n.toNat) b).map
          (fun segs => slice f (c + 1) (c + 1 + n.toNat) :: segs) := by
  obtain ⟨k, hk⟩ : ∃ k, b - c = k + 1 := ⟨b - c - 1, by omega⟩
  rw [segmentDecode, hk, segmentLoop_succ, if_pos h]
  cases f[c]? with
  | none => rfl
  | some n =>
    simp only
    split
    · rfl
    · rw [segmentDecode, segmentLoop_fuel f b k _ (by omega)]

/-- What `segment_decode` answers at or beyond the boundary. -/
theorem segmentDecode_of_ge (f : List Byte) {c b : Nat} (h : b ≤ c) : segmentDecode f c b = some [] := by
  simp [segmentDecode, segmentLoop, show b - c = 0 by omega]

/-- The one shape a `decode_frame` result can have in each case (41_frame_codec.md R120): a failing result
without data, a one-byte command of `P_SHORT_INNER` = `CmdOnly`, a single-value command without data, or a
multi-segment command with the segments of its payload. -/
theorem decodeFrame_cases (c : Config) (f : List Byte) (v : Bool) :
    decodeFrame c f v = malformed c ∨ decodeFrame c f v = badChecksum c ∨
      (∃ t, f = [t] ∧ decodeFrame c f v = ⟨.ok, t, []⟩) ∨
      (∃ t l rest, f = t :: l :: rest ∧ lengthOk f l v = true ∧
        ((isMulti c t = false ∧ decodeFrame c f v = ⟨.ok, t, []⟩) ∨
          (isMulti c t = true ∧ ∃ segs, segmentDecode f 2 (f.length - checksumOffset v) = some segs ∧
            decodeFrame c f v = ⟨.ok, t, segs⟩))) := by
  match f with
  | [] => left; simp [decodeFrame, decodeShort]
  | [t] =>
    simp only [decodeFrame, decodeShort]
    split <;> simp_all
  | t :: l :: rest =>
    cases hl : lengthOk (t :: l :: rest) l v with
    | false => left; simp [decodeFrame, hl]
    | true =>
      cases hv : v && !checksumOk (t :: l :: rest) with
      | true => right; left; simp [decodeFrame, hl, hv]
      | false =>
        have h : decodeFrame c (t :: l :: rest) v = decodePayload c (t :: l :: rest) t v := by
          simp [decodeFrame, hl, hv]
        rw [h]
        simp only [decodePayload]
        cases hm : isMulti c t with
        | false => right; right; right; exact ⟨t, l, rest, rfl, hl, .inl ⟨hm, by simp⟩⟩
        | true =>
          cases hs : segmentDecode (t :: l :: rest) 2
              ((t :: l :: rest).length - checksumOffset v) with
          | none => left; simp
          | some segs =>
            right; right; right
            exact ⟨t, l, rest, rfl, hl, .inr ⟨hm, segs, rfl, by simp⟩⟩

end Sys2Proof.Machine
end

