-- ==== Sys2Proof/Laws/PerInstr.lean ====
section
/-!
SUPPORT. Statements about every command as syntax. `MatchesRow`: the word of a command matches its own row
of the opcode map (30_encoding.md R82, R84), so every bit that is reserved for its opcode is 0.
-/

namespace Sys2Proof.Laws.MatchesRow

open Sys2Proof.Machine

/-- The word of `i` matches the row of `i`. -/
def Statement (i : Instr) : Prop := (rowOf i).spells (encode i) = true

/-- A data byte in `w[7:0]` leaves the fixed bits of a format B row alone. -/
theorem byte_row (m : Word) (d : Byte) (h : m &&& 0xFF00 = m) : withData m d &&& 0xFF00 = m := by
  conv_rhs => rw [← h]
  ext j hj
  simp only [withData, BitVec.getElem_and, BitVec.getElem_or, BitVec.getElem_setWidth]
  by_cases h8 : j < 8
  · have : (0xFF00 : Word)[j] = false := by interval_cases j <;> simp
    rw [this, Bool.and_false, Bool.and_false]
  · rw [BitVec.getLsbD_of_ge d j (by omega), Bool.or_false]

theorem nop : Statement .nop := rfl

theorem feed (d : Byte) : Statement (.feed d) := by
  simpa [Statement, Row.spells, rowOf, rowFeed, encode] using byte_row 0x1000 d rfl

theorem srst : Statement .srst := rfl

theorem fload (d : Byte) : Statement (.fload d) := by
  simpa [Statement, Row.spells, rowOf, rowFload, encode] using byte_row 0x3000 d rfl

theorem fclr : Statement .fclr := rfl

theorem fdec (v : Bool) : Statement (.fdec v) := by cases v <;> rfl

end Sys2Proof.Laws.MatchesRow
end

