-- ==== Sys2Proof/Laws/StreamSync.lean ====
section
/-!
SUPPORT. What `feed_byte` and a `FEED` can do.
-/

namespace Sys2Proof.Machine

/-- Only a position at which a byte can be stored answers `CONTINUE` (00_scope.md R7). -/
theorem pos_of_cont {c : Config} {p : Nat} {b : Byte} {h : List Byte} (hr : feedByte c p b h = .cont) :
    p < nHist := by
  unfold feedByte at hr
  simp only [nHist]
  split at hr
  · omega
  · split at hr
    · omega
    · split at hr
      · omega
      · split at hr
        · simp at hr
        · rename_i n _
          have := n.isLt
          split at hr
          · omega
          · split at hr
            · simp only [feedChecksum] at hr
              split at hr
              · simp at hr
              · split at hr <;> simp at hr
            · simp at hr

/-- What an accepting `FEED` carries (43_stream_sync.md R176). -/
theorem result_of_accept {c : Config} {p : Nat} {b : Byte} {h : List Byte} {r : ParsedCommand}
    (hr : feedByte c p b h = .accept r) :
    ∃ n : Byte, h[8]? = some n ∧ p = 9 + n.toNat ∧ h[7]? = some c.typeRpc ∧
      r = decodeFrame c (slice h 9 (9 + n.toNat)) false := by
  unfold feedByte at hr
  split at hr
  · split at hr <;> simp at hr
  · split at hr
    · split at hr <;> simp at hr
    · split at hr
      · simp at hr
      · split at hr
        · simp at hr
        · rename_i n hn
          split at hr
          · simp at hr
          · split at hr
            · rename_i hp
              simp only [feedChecksum] at hr
              split at hr
              · simp at hr
              · split at hr
                · rename_i ht
                  exact ⟨n, hn, hp, ht, by simpa using hr.symm⟩
                · simp at hr
            · simp at hr

end Sys2Proof.Machine
end

