-- ==== Sys2Proof/Laws/Step.lean ====
section
/-!
SUPPORT. What a command and a step can do: the inversion lemmas every whole-machine proof starts from.
-/

namespace Sys2Proof.Machine

/-- The next state of a command, as a function. -/
def after (i : Instr) (s : State) : State :=
  match i with
  | .nop => s.report .done
  | .feed d => s.afterFeed d (feedByte s.cfg s.syncPos.toNat d s.history)
  | .srst => s.restartSync.report .done
  | .fload d => (if s.frmLen.toNat < nFrm then s.pushFrame d else s.overflowFrame).report .done
  | .fclr => s.clearFrame.report .done
  | .fdec v => (s.writeResult (fdecResult v s)).report .done

theorem exec_after (i : Instr) (s : State) : exec i s = .next (after i s) := by cases i <;> rfl

/-- Every update a command can be: the states a command can lead to. -/
theorem exec_cases {i : Instr} {s t : State} (h : exec i s = .next t) :
    (i = .nop ∧ t = s.report .done) ∨
    (i = .srst ∧ t = s.restartSync.report .done) ∨
    (i = .fclr ∧ t = s.clearFrame.report .done) ∨
    (∃ d, i = .fload d ∧ s.frmLen.toNat < nFrm ∧ t = (s.pushFrame d).report .done) ∨
    (∃ d, i = .fload d ∧ ¬ s.frmLen.toNat < nFrm ∧ t = s.overflowFrame.report .done) ∨
    (∃ v, i = .fdec v ∧ t = (s.writeResult (fdecResult v s)).report .done) ∨
    (∃ d, i = .feed d ∧ t = s.afterFeed d (feedByte s.cfg s.syncPos.toNat d s.history)) := by
  rw [exec_after] at h
  injection h with h
  subst h
  cases i with
  | nop => simp [after]
  | srst => simp [after]
  | fclr => simp [after]
  | fdec v => simp [after]
  | feed d => simp [after]
  | fload d =>
    by_cases hl : s.frmLen.toNat < nFrm
    · simp [after, hl]
    · simp [after, hl]

/-- Every step that answers a next state is one of these. -/
theorem step_cases {s t : State} (h : step s = .next t) :
    s.cfg.wf = true ∧
    ((s.inputs = [] ∧ t = s.idle) ∨
      (∃ w rest i u, s.inputs = .command w :: rest ∧ decode w = .command i ∧
        exec i (s.withInputs rest) = .next u ∧ t = u.pulse) ∨
      (∃ w rest r, s.inputs = .command w :: rest ∧ decode w = .illegal r ∧
        t = ((s.withInputs rest).report .illegal).pulse) ∨
      (∃ rest, s.inputs = .rst :: rest ∧ t = (s.withInputs rest).applyReset) ∨
      (∃ rest idx, s.inputs = .readDesc idx :: rest ∧ t = (s.withInputs rest).hostReadDesc idx) ∨
      (∃ rest idx, s.inputs = .readData idx :: rest ∧ t = (s.withInputs rest).hostReadData idx)) := by
  unfold step at h
  split at h
  · rename_i hc
    refine ⟨hc, ?_⟩
    split at h
    · rename_i hi
      injection h with h
      exact .inl ⟨hi, h.symm⟩
    · rename_i w rest hi
      split at h
      · rename_i i hd
        rw [exec_after] at h
        injection h with h
        exact .inr (.inl ⟨w, rest, i, _, hi, hd, exec_after _ _, h.symm⟩)
      · rename_i r hd
        injection h with h
        exact .inr (.inr (.inl ⟨w, rest, r, hi, hd, h.symm⟩))
    · rename_i rest hi
      injection h with h
      exact .inr (.inr (.inr (.inl ⟨rest, hi, h.symm⟩)))
    · rename_i idx rest hi
      injection h with h
      exact .inr (.inr (.inr (.inr (.inl ⟨rest, idx, hi, h.symm⟩))))
    · rename_i idx rest hi
      injection h with h
      exact .inr (.inr (.inr (.inr (.inr ⟨rest, idx, hi, h.symm⟩))))
  · exact absurd h (by simp)

end Sys2Proof.Machine
end

