-- ==== Sys2Proof/Laws/Runs.lean ====
section
/-!
SUPPORT. Runs of commands, and which parts of the state each derived value depends on.
-/

namespace Sys2Proof.Machine

theorem State.history_congr {s t : State} (h1 : t.syncPos = s.syncPos) (h2 : t.syncHist = s.syncHist) :
    t.history = s.history := by
  simp only [State.history, h1]
  exact State.readRange_congr (n := .syncHist) h2 _ _

theorem State.frame_congr {s t : State} (h1 : t.frmLen = s.frmLen) (h2 : t.frmBuf = s.frmBuf) :
    t.frame = s.frame := by
  simp only [State.frame, h1]
  exact State.readRange_congr (n := .frmBuf) h2 _ _

theorem State.res_congr {s t : State} (h1 : t.resStatus = s.resStatus) (h2 : t.resCmd = s.resCmd)
    (h3 : t.resNseg = s.resNseg) (h4 : t.resSegOff = s.resSegOff) (h5 : t.resSegLen = s.resSegLen)
    (h6 : t.resData = s.resData) : t.res = s.res := by
  simp only [State.res, h1, h2, h3]
  congr 1
  apply List.map_congr_left
  intro i _
  simp only [State.segment, State.readBuf_congr (t := t) (s := s) (n := .resSegOff) h4,
    State.readBuf_congr (t := t) (s := s) (n := .resSegLen) h5,
    State.readRange_congr (t := t) (s := s) (n := .resData) h6]

theorem afterFeed_lastEvt (s : State) (d : Byte) (r : SyncResult) :
    (s.afterFeed d r).lastEvt = eventOf r := by cases r <;> rfl

theorem afterFeed_syncPos {r : SyncResult} (s : State) (d : Byte) (h : r ≠ .cont) :
    (s.afterFeed d r).syncPos = 0 := by cases r <;> first | exact absurd rfl h | rfl

/-- Every buffer of the reset state is in canonical form. -/
theorem reset_buf_wf (c : Config) (n : BufName) : ((State.resetWith c).buf n).wf = true := by
  cases n <;> rfl

@[simp] theorem execAll_nil (s : State) : execAll [] s = .next s := rfl

theorem execAll_cons (i : Instr) (is : List Instr) (s : State) :
    execAll (i :: is) s = execAll is (after i s) := by simp only [execAll, exec_after]

theorem execAll_append (is js : List Instr) (s t : State) (h : execAll is s = .next t) :
    execAll (is ++ js) s = execAll js t := by
  induction is generalizing s with
  | nil => simp only [execAll, Host.Outcome.next.injEq] at h; rw [h]; rfl
  | cons i is ih =>
    rw [execAll_cons] at h
    rw [List.cons_append, execAll_cons, ih _ h]

end Sys2Proof.Machine
end

