-- ==== Sys2Proof/Tests/Slice0.lean ====
section
/-!
SUPPORT. The model's own tests. Expected results are those of spec/95_test_vectors.md (named at each test)
or are worked by hand from the rule named there. The `witness_` theorems show, for each statement with
hypotheses, a state and operands that meet them.
-/

namespace Sys2Proof.Tests

open Sys2Proof.Machine

/-- The default parameters (95_test_vectors.md, preamble), `P_CMD_CUSTOM` = 0x10. -/
def cfg : Config := defaultConfig

/-- A block in the middle of a stream frame whose bytes so far are `h`. -/
def midFrame (h : List Byte) : State :=
  { State.resetWith cfg with syncPos := BitVec.ofNat 9 h.length, syncHist := Memory.ofBytes h }

/-- A block with the frame `f` loaded. -/
def loaded (f : List Byte) : State :=
  { State.resetWith cfg with frmLen := BitVec.ofNat 9 f.length, frmBuf := Memory.ofBytes f }

/-- A block that holds the result (OK, 0x01, [[68 69], [70 77]]) (95_test_vectors.md P4). -/
def withResult : State :=
  (State.resetWith cfg).writeResult ⟨.ok, 0x01, [[0x68, 0x69], [0x70, 0x77]]⟩

/-- What one step did, where it answered a next state. -/
def stepped (s : State) : Option State :=
  match step s with
  | .next t => some t
  | _ => none

/-- What one command did, where it answered a next state. -/
def did (i : Instr) (s : State) : Option State :=
  match exec i s with
  | .next t => some t
  | _ => none

/-! ## Well-formedness -/

theorem test_config_wf : cfg.wf = true := by decide
theorem test_config_refuses_unknown_bad : ({ cfg with cmdBadChecksum := 0x00 } : Config).wf = false := by
  decide
theorem test_config_refuses_unknown_wifi : ({ cfg with cmdWifiSettings := 0x00 } : Config).wf = false := by
  decide
theorem test_config_refuses_unknown_custom : ({ cfg with cmdCustom := 0x00 } : Config).wf = false := by
  decide
theorem test_config_refuses_bad_wifi : ({ cfg with cmdWifiSettings := 0xFF } : Config).wf = false := by
  decide
theorem test_config_refuses_bad_custom : ({ cfg with cmdCustom := 0xFF } : Config).wf = false := by decide
theorem test_config_refuses_wifi_custom : ({ cfg with cmdCustom := 0x01 } : Config).wf = false := by decide

/-! ## Decoding: words written out bit by bit from 30_encoding.md R82 -/

theorem test_decode_nop : decode 0b0000_0000_0000_0000 = .command .nop := by decide
theorem test_decode_feed : decode 0b0001_0000_0100_1001 = .command (.feed 0x49) := by decide
theorem test_decode_srst : decode 0b0010_0000_0000_0000 = .command .srst := by decide
theorem test_decode_fload : decode 0b0011_0000_0000_0010 = .command (.fload 0x02) := by decide
theorem test_decode_fclr : decode 0b0100_0000_0000_0000 = .command .fclr := by decide
theorem test_decode_fdec0 : decode 0b0101_0000_0000_0000 = .command (.fdec false) := by decide
theorem test_decode_fdec1 : decode 0b0101_0001_0000_0000 = .command (.fdec true) := by decide

/-- 95_test_vectors.md 2.4: the words that spell no command. -/
theorem test_decode_illegal :
    ([0x0001, 0x1149, 0x1E49, 0x2100, 0x5001, 0x5200] : List Word).map decode =
      List.replicate 6 (.illegal .reservedBits) ∧
    ([0x6000, 0x7FFF, 0xF000] : List Word).map decode = List.replicate 3 (.illegal .reservedOpcode) := by
  decide

/-- The opcode-table word of each row is read and run first after reset. -/
theorem test_table_word : decodeTableWord 16 0x10FF = some (.feed 0xFF) := by decide
theorem test_first_command :
    (stepped (State.reset.withFetchWord 16 0x5000)).map (fun t => (t.lastEvt, t.resStatus, t.evtValid)) =
      some (.done, .malformed, true) := by decide

/-! ## The checksum and the status word -/

/-- 95_test_vectors.md 2.1. -/
theorem test_cs8 : cs8 [0xFF, 0x01] = 0x00 ∧ cs8 magic = 0xDD ∧ cs8 (magic ++ [0x01, 0x03, 0x00]) = 0xE1 := by
  decide
/-- 95_test_vectors.md P1: status word 0x0009. -/
theorem test_status_word :
    statusWord { State.reset with lastEvt := .accept, resStatus := .ok } = 0x0009 := by decide
theorem test_status_overflow :
    statusWord { State.reset with lastEvt := .done, resStatus := .malformed, frmOvf := true } = 0x0035 := by
  decide

/-! ## decode_frame: 95_test_vectors.md 2.2 -/

theorem test_frame_two_segments :
    decodeFrame cfg [0x01, 0x07, 0x03, 0x61, 0x62, 0x63, 0x02, 0x78, 0x79, 0x24] true =
      ⟨.ok, 0x01, [[0x61, 0x62, 0x63], [0x78, 0x79]]⟩ := by decide
theorem test_frame_overrun_after_checksum :
    decodeFrame cfg [0x01, 0x07, 0x03, 0x61, 0x62, 0x63, 0x03, 0x78, 0x79, 0x25] true =
      ⟨.malformed, 0x00, []⟩ := by decide
theorem test_frame_trailing_empty_segments :
    decodeFrame cfg [0x01, 0x04, 0x01, 0x41, 0x00, 0x00] false = ⟨.ok, 0x01, [[0x41], [], []]⟩ := by decide
theorem test_frame_dangling_length : decodeFrame cfg [0x01, 0x01, 0x01] false = ⟨.malformed, 0x00, []⟩ := by
  decide
theorem test_frame_length_before_checksum :
    decodeFrame cfg [0x02, 0x01, 0x02] true = ⟨.malformed, 0x00, []⟩ := by decide
theorem test_frame_two_bytes_verified : decodeFrame cfg [0x02, 0x00] true = ⟨.malformed, 0x00, []⟩ := by decide
theorem test_frame_sentinel_tag : decodeFrame cfg [0xFF, 0x00, 0xFF] true = ⟨.ok, 0xFF, []⟩ := by decide
theorem test_frame_short_cmd_only :
    decodeFrame { cfg with shortInner := .cmdOnly } [0x02] false = ⟨.ok, 0x02, []⟩ ∧
    decodeFrame cfg [0x02] false = ⟨.malformed, 0x00, []⟩ := by decide

/-! ## The commands, one step each -/

/-- 40_common.md R104, example. -/
theorem test_nop : (did .nop (midFrame [0x49, 0x4D, 0x50])).map (fun t => (t.syncPos, t.lastEvt)) =
    some (3, .done) := by decide
/-- 43_stream_sync.md R181, example. -/
theorem test_srst :
    (did .srst (midFrame [0x49, 0x4D, 0x50, 0x52, 0x4F, 0x56, 0x01])).map (fun t => (t.syncPos, t.lastEvt)) =
      some (0, .done) := by decide
/-- 95_test_vectors.md 2.4: `FLOAD` at 257 and at 258. -/
theorem test_fload_last :
    (did (.fload 0x02) { State.reset with frmLen := 257 }).map (fun t => (t.frmLen, t.frmOvf, t.frmBuf)) =
      some (258, false, [(257, 0x02)]) := by decide
theorem test_fload_overflow :
    (did (.fload 0x02) { State.reset with frmLen := 258 }).map (fun t => (t.frmLen, t.frmOvf, t.frmBuf)) =
      some (258, true, []) := by decide
/-- 41_frame_codec.md R130, example. -/
theorem test_fclr :
    (did .fclr { State.reset with frmLen := 258, frmOvf := true }).map (fun t => (t.frmLen, t.frmOvf)) =
      some (0, false) := by decide
/-- 95_test_vectors.md P3: the result bank after `FDEC 1`. -/
theorem test_fdec_bank :
    (did (.fdec true) (loaded [0x01, 0x07, 0x03, 0x61, 0x62, 0x63, 0x02, 0x78, 0x79, 0x24])).map
      (fun t => (t.resStatus, t.resNseg, t.resSegOff == [(0, 0), (1, 3)], t.resSegLen == [(0, 3), (1, 2)],
        t.resData == [(0, 0x61), (1, 0x62), (2, 0x63), (3, 0x78), (4, 0x79)])) =
      some (.ok, 2, true, true, true) := by decide
/-- 95_test_vectors.md P3: the same bytes without verification. -/
theorem test_fdec_unverified :
    (did (.fdec false) (loaded [0x01, 0x07, 0x03, 0x61, 0x62, 0x63, 0x02, 0x78, 0x79, 0x24])).map
      (fun t => (t.resStatus, t.resNseg, t.frmLen)) = some (.malformed, 0, 10) := by decide
/-- 43_stream_sync.md R180, example: the last byte of the frame. -/
theorem test_feed_accept :
    (did (.feed 0xE5) (midFrame [0x49, 0x4D, 0x50, 0x52, 0x4F, 0x56, 0x01, 0x03, 0x02, 0x02, 0x00])).map
      (fun t => (t.res, t.syncPos, t.lastEvt)) = some (⟨.ok, 0x02, []⟩, 0, .accept) := by decide
/-- 95_test_vectors.md 2.3: type 0x01 is not RPC. -/
theorem test_feed_dropped :
    (did (.feed 0xE3) (midFrame [0x49, 0x4D, 0x50, 0x52, 0x4F, 0x56, 0x01, 0x01, 0x02, 0x02, 0x00])).map
      (fun t => (t.res, t.syncPos, t.lastEvt)) = some (⟨.none, 0x00, []⟩, 0, .dropped) := by decide
/-- 40_common.md R105, example. -/
theorem test_illegal :
    (stepped ((midFrame [0x49, 0x4D, 0x50, 0x52]).offer 0x6000)).map (fun t => (t.syncPos, t.lastEvt)) =
      some (4, .illegal) := by decide
/-- 10_state.md R25, R26: the second descriptor and a data byte through the ports. -/
theorem test_port_desc :
    (stepped (withResult.withInputs [.readDesc 1])).map (fun t => t.lastRead) = some (.desc 2 2) := by decide
theorem test_port_data :
    (stepped (withResult.withInputs [.readData 3])).map (fun t => t.lastRead) = some (.data 0x77) := by decide
/-- 30_encoding.md R86: a line of text, its comment and its character literal. -/
theorem test_assemble_line :
    assembleText cfg ['F', 'E', 'E', 'D', ' ', tickChar, 'I', tickChar, ' ', ';', 'x'] = some [0x1049] := by
  decide
/-- 30_encoding.md R87, 95_test_vectors.md P1. -/
theorem test_assemble_sframe :
    assemble cfg (.sframe 0x03 [0x02, 0x00]) =
      some [0x1049, 0x104D, 0x1050, 0x1052, 0x104F, 0x1056, 0x1001, 0x1003, 0x1002, 0x1002, 0x1000, 0x10E5] := by
  decide

/-- 30_encoding.md R87, row `FEEDSTR`. -/
theorem test_assemble_feedstr : assemble cfg (.feedstr ['I', 'M']) = some [0x1049, 0x104D] := by decide

/-! ## Witnesses: the hypotheses of the statements can be met -/

theorem witness_WordSpellsTheRowItMatches :
    (State.reset.offer 0x1149).cfg.wf = true ∧
    (State.reset.offer 0x1149).inputs = .command 0x1149 :: [] ∧
    (∀ r ∈ opcodeMap, r.spells 0x1149 = false) := by decide

theorem witness_PseudoInstructionsExpandToCommands :
    ([0x02, 0x00] : List Byte).length ≤ 255 ∧ ([0x02, 0x00] : List Byte) ≠ [] ∧
    (∀ ch ∈ ['I', '~'], ch.toNat < 128) := by
  refine ⟨by decide, by decide, fun ch hc => ?_⟩
  simp only [List.mem_cons, List.not_mem_nil, or_false] at hc
  rcases hc with rfl | rfl <;> decide

theorem witness_StepExecutesTheOfferedCommand :
    (State.reset.offer 0x1049).cfg.wf = true ∧
    (State.reset.offer 0x1049).inputs = .command 0x1049 :: [] ∧
    decode 0x1049 = .command (.feed 0x49) ∧ decode 0x6000 = .illegal .reservedOpcode ∧
    (State.reset.offer 0x6000).inputs = .command 0x6000 :: [] := by decide

theorem witness_IllegalWordOnlyReports :
    ReservedWord 0x6000 ∧ ReservedWord 0x5001 ∧ ReservedWord 0x0800 ∧ ¬ ReservedWord 0x5100 := by decide

theorem witness_IdleBlockHoldsItsState : State.reset.cfg.wf = true ∧ State.reset.inputs = [] := by decide

theorem witness_IllFormedConfigurationIsRefused :
    (State.resetWith { cfg with cmdCustom := 0x01 }).cfg.wf = false := by decide

theorem witness_ResetLeavesTheStatedValues : cfg.wf = true := by decide

theorem witness_ResetInputRestoresTheRegisters :
    (withResult.withInputs [.rst]).cfg.wf = true ∧ (withResult.withInputs [.rst]).inputs = .rst :: [] := by
  decide

theorem witness_FloadAppendsOrOverflows :
    ({ State.reset with frmLen := 257 } : State).frmLen.toNat < 258 ∧
    258 ≤ ({ State.reset with frmLen := 258 } : State).frmLen.toNat := by decide

theorem witness_RepeatingACommandChangesNothing :
    (∀ d, Instr.fdec true ≠ .feed d) ∧ (∀ d, Instr.fdec true ≠ .fload d) ∧
    execIllegal State.reset = .next (State.reset.report .illegal) := by
  refine ⟨fun d => by simp, fun d => by simp, rfl⟩

theorem witness_NopSrstFclrFrame :
    Instr.srst ∈ [Instr.nop, .srst, .fclr] ∧
    exec .srst (midFrame [0x49]) = .next (after .srst (midFrame [0x49])) ∧
    Instr.srst ≠ .fclr ∧ Instr.fclr ≠ .srst := by
  refine ⟨by simp, rfl, by simp, by simp⟩

theorem witness_FloadFrame :
    exec (.fload 0x41) { State.reset with frmLen := 257 } =
      .next (after (.fload 0x41) { State.reset with frmLen := 257 }) ∧
    ({ State.reset with frmLen := 257 } : State).frmLen.toNat < 258 ∧
    exec (.fload 0x41) { State.reset with frmLen := 258 } =
      .next (after (.fload 0x41) { State.reset with frmLen := 258 }) ∧
    258 ≤ ({ State.reset with frmLen := 258 } : State).frmLen.toNat :=
  ⟨rfl, by decide, rfl, by decide⟩

theorem witness_FdecFrame :
    exec (.fdec true) (loaded [0x02, 0x00, 0x02]) = .next (after (.fdec true) (loaded [0x02, 0x00, 0x02])) :=
  rfl

theorem witness_FeedFrame :
    exec (.feed 0x49) State.reset = .next (after (.feed 0x49) State.reset) ∧
    (after (.feed 0x49) State.reset).lastEvt ≠ .accept ∧
    exec (.feed 0x58) State.reset = .next (after (.feed 0x58) State.reset) ∧
    (after (.feed 0x58) State.reset).lastEvt ≠ .cont :=
  ⟨rfl, by decide, rfl, by decide⟩

theorem witness_OnlyWriteResultOrResetChangesTheBank :
    step ((loaded [0x02, 0x00]).offer 0x5000) =
      .next (after (.fdec false) (loaded [0x02, 0x00])).pulse := by rfl

theorem witness_OnlyVerifyingFdecReportsBadChecksum :
    exec (.fdec true) (loaded [0x02, 0x00, 0x03]) = .next (after (.fdec true) (loaded [0x02, 0x00, 0x03])) ∧
    (loaded [0x02, 0x00, 0x03]).resStatus ≠ .badChecksum ∧
    (after (.fdec true) (loaded [0x02, 0x00, 0x03])).resStatus = .badChecksum :=
  ⟨rfl, by decide, by decide⟩

theorem witness_WriteResultLaysOutTheSegments :
    ([List.replicate 100 0x41, [], List.replicate 154 0x42] : List (List Byte)).length ≤ 255 ∧
    ([List.replicate 100 0x41, [], List.replicate 154 0x42] : List (List Byte)).flatten.length ≤ 254 ∧
    ([List.replicate 100 0x41, [], List.replicate 154 0x42] : List (List Byte))[1]? = some [] := by
  refine ⟨by decide, ?_, rfl⟩
  simp only [List.flatten_cons, List.flatten_nil, List.length_append, List.length_replicate,
    List.length_nil]
  omega

theorem witness_reset_ResInv (c : Config) : ResInv (State.resetWith c) := by
  constructor <;> simp [State.resetWith, State.dataTotal, nData]

theorem witness_BankValueIsTheWrittenResult :
    ResInv (State.resetWith cfg) ∧ (State.resetWith cfg).resStatus = .none :=
  ⟨witness_reset_ResInv cfg, rfl⟩

theorem witness_DecodeFrameChecksInOrder :
    ([0x02] : List Byte).length < 2 ∧ cfg.shortInner = .unknown ∧
    ([0x02, 0x00] : List Byte)[0]? = some 0x02 ∧ ([0x02, 0x00] : List Byte)[1]? = some 0x00 ∧
    ({ State.reset with frmOvf := true } : State).frmOvf = true := by decide

theorem witness_ShortInputFollowsTheParameter :
    ([0x02] : List Byte).length < 2 ∧ cfg.shortInner = .unknown ∧
    ({ cfg with shortInner := .cmdOnly } : Config).shortInner = .cmdOnly ∧
    (∃ t : Byte, ([0x02] : List Byte) = [t] ∧ false = false) ∧
    (∀ t : Byte, ¬ (([0x02] : List Byte) = [t] ∧ true = false)) := by
  refine ⟨by decide, rfl, rfl, ⟨0x02, rfl, rfl⟩, by simp⟩

theorem witness_WrongDeclaredLengthIsMalformed :
    ([0x02, 0x05, 0x00] : List Byte)[1]? = some 0x05 ∧
    (((0x05 : Byte).toNat : Int) ≠ (([0x02, 0x05, 0x00] : List Byte).length : Int) - 2 - 0) ∧
    ([0x02, 0x00] : List Byte).length = 2 ∧
    258 ≤ (0x02 :: 0xFF :: List.replicate 256 0x00 : List Byte).length ∧
    (0x02 :: 0xFF :: List.replicate 256 0x00 : List Byte)[1]? = some 0xFF := by
  refine ⟨rfl, by decide, rfl, ?_, rfl⟩
  rw [List.length_cons, List.length_cons, List.length_replicate]

theorem witness_ChangedByteOfACheckedFrameIsDetected :
    (decodeFrame cfg [0x02, 0x00, 0x02] true).status = .ok ∧
    2 < ([0x02, 0x00, 0x02] : List Byte).length ∧ ([0x02, 0x00, 0x02] : List Byte)[2]? ≠ some 0x03 ∧
    ([0x02, 0x00, 0x02] : List Byte)[1]? ≠ some 0x01 := by decide

theorem witness_SingleValueFrameGivesItsTag :
    ([0xAA] : List Byte).length ≤ 255 ∧ isMulti cfg 0x02 = false ∧ cfg.wf = true := by decide

theorem witness_FailingResultsCarryNoData :
    (decodeFrame cfg [0x02, 0x05, 0x00] false).status ≠ .ok ∧
    (decodeFrame cfg [0x01, 0x01, 0x00] false).data ≠ [] := by decide

theorem witness_SegmentDecoderTakesOneSegmentATurn :
    3 ≤ ([0x01, 0x01, 0x00] : List Byte).length ∧ 2 < 3 ∧ 3 ≤ 3 := by decide

theorem witness_SegmentsTileThePayload :
    (2 : Nat) ≤ 5 ∧ 5 ≤ ([0x01, 0x03, 0x02, 0x41, 0x42] : List Byte).length ∧ 5 - 2 ≤ 255 ∧
    segmentDecode [0x01, 0x03, 0x02, 0x41, 0x42] 2 5 = some [[0x41, 0x42]] := by decide

theorem witness_FramingViolationsAreExactlyTheOverruns :
    (2 : Nat) ≤ 5 ∧ 5 ≤ ([0x01, 0x03, 0x01, 0x41, 0x00] : List Byte).length ∧
    (∀ seg ∈ ([[0x41]] : List (List Byte)), seg.length ≤ 255) ∧
    2 + (packSegments [[0x41]]).length + 1 = 5 ∧
    slice [0x01, 0x03, 0x01, 0x41, 0x00] 2 (2 + (packSegments [[0x41]]).length) = packSegments [[0x41]] ∧
    ([0x01, 0x03, 0x01, 0x41, 0x00] : List Byte)[2 + (packSegments [[0x41]]).length]? = some 0 := by decide

theorem witness_MultiSegmentFramesAreExactlyThePackedOnes :
    isMulti cfg 0x01 = true ∧ 2 ≤ (commandFrame 0x01 (packSegments [[0x41], []]) true).length ∧
    decodeFrame cfg (commandFrame 0x01 (packSegments [[0x41], []]) true) true = ⟨.ok, 0x01, [[0x41], []]⟩ := by
  decide

theorem witness_LoadsWithoutClearAreConcatenated :
    (loaded [0x02]).frmOvf = false ∧ (loaded [0x02]).frmLen.toNat + ([0x00] : List Byte).length ≤ 258 := by
  decide

theorem witness_PreambleAndVersionAreChecked :
    (midFrame [0x49, 0x4D, 0x50, 0x52, 0x4F]).syncPos.toNat ≤ 5 ∧
    (midFrame [0x49, 0x4D, 0x50, 0x52, 0x4F, 0x56]).syncPos.toNat = 6 := by decide

theorem witness_HeaderAndPayloadAreBuffered :
    (midFrame [0x49, 0x4D, 0x50, 0x52, 0x4F, 0x56, 0x01]).syncPos.toNat = 7 ∧
    (midFrame [0x49, 0x4D, 0x50, 0x52, 0x4F, 0x56, 0x01, 0x03]).syncPos.toNat = 8 ∧
    9 ≤ (midFrame [0x49, 0x4D, 0x50, 0x52, 0x4F, 0x56, 0x01, 0x03, 0x01]).syncPos.toNat ∧
    (midFrame [0x49, 0x4D, 0x50, 0x52, 0x4F, 0x56, 0x01, 0x03, 0x01]).syncPos.toNat ≤
      8 + ((midFrame [0x49, 0x4D, 0x50, 0x52, 0x4F, 0x56, 0x01, 0x03, 0x01]).readBuf .syncHist 8).toNat := by
  decide

theorem witness_ChecksumPositionEndsTheFrame :
    (midFrame [0x49, 0x4D, 0x50, 0x52, 0x4F, 0x56, 0x01, 0x03, 0x00]).syncPos.toNat =
      9 + ((midFrame [0x49, 0x4D, 0x50, 0x52, 0x4F, 0x56, 0x01, 0x03, 0x00]).readBuf .syncHist 8).toNat ∧
    cs8 (midFrame [0x49, 0x4D, 0x50, 0x52, 0x4F, 0x56, 0x01, 0x03, 0x00]).history ≠ 0xE0 ∧
    cs8 (midFrame [0x49, 0x4D, 0x50, 0x52, 0x4F, 0x56, 0x01, 0x03, 0x00]).history = 0xE1 ∧
    (midFrame [0x49, 0x4D, 0x50, 0x52, 0x4F, 0x56, 0x01, 0x03, 0x00]).readBuf .syncHist 7 = cfg.typeRpc ∧
    (midFrame [0x49, 0x4D, 0x50, 0x52, 0x4F, 0x56, 0x01, 0x02, 0x00]).syncPos.toNat =
      9 + ((midFrame [0x49, 0x4D, 0x50, 0x52, 0x4F, 0x56, 0x01, 0x02, 0x00]).readBuf .syncHist 8).toNat ∧
    cs8 (midFrame [0x49, 0x4D, 0x50, 0x52, 0x4F, 0x56, 0x01, 0x02, 0x00]).history = 0xE0 ∧
    (midFrame [0x49, 0x4D, 0x50, 0x52, 0x4F, 0x56, 0x01, 0x02, 0x00]).readBuf .syncHist 7 ≠ cfg.typeRpc := by
  decide

/-- A block after `IMPROV`, version 1, type 3 and length 2: the state most of the stream statements need. -/
def afterHeader : State := midFrame [0x49, 0x4D, 0x50, 0x52, 0x4F, 0x56, 0x01, 0x03, 0x02]

theorem witness_afterHeader_SyncInv : SyncInv afterHeader :=
  ⟨by decide, by decide, by decide, by decide, by decide⟩

theorem witness_BeyondTheChecksumPositionDesyncs :
    9 + ((midFrame [0x49, 0x4D, 0x50, 0x52, 0x4F, 0x56, 0x01, 0x03, 0x00, 0x00]).readBuf .syncHist 8).toNat <
      (midFrame [0x49, 0x4D, 0x50, 0x52, 0x4F, 0x56, 0x01, 0x03, 0x00, 0x00]).syncPos.toNat ∧
    SyncInv afterHeader := ⟨by decide, witness_afterHeader_SyncInv⟩

theorem witness_OnlyAByteAtPositionZeroStartsAFrame :
    exec (.feed 0x49) State.reset = .next (after (.feed 0x49) State.reset) ∧
    (after (.feed 0x49) State.reset).syncPos = 1 ∧
    1 ≤ (midFrame [0x49]).syncPos.toNat ∧ (midFrame [0x49]).syncPos.toNat ≤ 5 ∧
    (midFrame [0x49, 0x4D, 0x50, 0x52, 0x4F, 0x56]).syncPos.toNat = 6 ∧
    (midFrame [0x49, 0x4D, 0x50, 0x52, 0x4F, 0x56]).cfg.version ≠ 0x49 :=
  ⟨rfl, by decide, by decide, by decide, by decide, by decide⟩

theorem witness_HistoryHoldsTheBytesOfTheFrame :
    (after (.feed 0x49) State.reset).lastEvt = .cont ∧ (after (.feed 0x58) State.reset).lastEvt ≠ .cont := by
  decide

theorem witness_PayloadBytesAreSwallowedUninspected :
    afterHeader.syncPos.toNat = 9 ∧
    ([0x49, 0x4D] : List Byte).length = (afterHeader.readBuf .syncHist 8).toNat := by decide

theorem witness_WholeStreamFrameIsDelivered :
    State.reset.syncPos = 0 ∧ ([0x02, 0x00] : List Byte).length ≤ 255 ∧
    (0x03 : Byte) = State.reset.cfg.typeRpc ∧ (0x01 : Byte) ≠ State.reset.cfg.typeRpc ∧
    (0x00 : Byte) ≠ cs8 (streamBody State.reset.cfg 0x03 [0x02, 0x00]) := by decide

theorem witness_NamedStateMachineRefinesTheSynchronizer :
    State.reset.syncPos = 0 ∧ SyncInv afterHeader ∧
    CompactMatches ⟨.payload 0, 0xE3, 0x03, 0x02, []⟩ afterHeader :=
  ⟨rfl, witness_afterHeader_SyncInv, ⟨by decide, by decide, by decide, by decide, by decide⟩⟩

theorem witness_StepKeepsTheSynchronizerInvariant :
    SyncInv (afterHeader.offer 0x1002) ∧
    step (afterHeader.offer 0x1002) = .next (after (.feed 0x02) afterHeader).pulse :=
  ⟨⟨by decide, by decide, by decide, by decide, by decide⟩, by rfl⟩

theorem witness_StepKeepsTheFrameBufferInvariant :
    FrameInv ((loaded [0x02]).offer 0x3000) ∧
    step ((loaded [0x02]).offer 0x3000) = .next (after (.fload 0x00) (loaded [0x02])).pulse :=
  ⟨⟨by decide, by decide, by decide⟩, by rfl⟩

theorem witness_withResult_ResInv : ResInv (withResult.offer 0x0000) :=
  ⟨by decide, by decide, by decide, by decide, by decide, by decide, by decide, by decide,
    fun i hi => by
      have h2 : (withResult.offer 0x0000).resNseg.toNat = 2 := by decide
      obtain rfl : i = 0 := by omega
      decide,
    by decide, by decide⟩

theorem witness_StepKeepsTheResultBankInvariant :
    ResInv (withResult.offer 0x0000) ∧ step (withResult.offer 0x0000) = .next (after .nop withResult).pulse :=
  ⟨witness_withResult_ResInv, by rfl⟩

theorem witness_StepKeepsTheBuffersInBounds :
    BufInv (withResult.offer 0x0000) ∧ step (withResult.offer 0x0000) = .next (after .nop withResult).pulse :=
  ⟨fun n => by cases n <;> decide, by rfl⟩

theorem witness_StepKeepsTheParameters :
    step (State.reset.withInputs [.rst]) = .next (State.reset.withInputs []).applyReset := by rfl

theorem witness_HiddenEntriesNeverMatter :
    SameVisible (midFrame []) { midFrame [] with syncHist := [(5, 0x99)], frmBuf := [(0, 0x98)] } ∧
    midFrame [] ≠ { midFrame [] with syncHist := [(5, 0x99)], frmBuf := [(0, 0x98)] } :=
  ⟨⟨rfl, rfl, rfl, rfl, rfl, rfl, rfl, rfl⟩, by decide⟩

theorem witness_PortReadsReturnTheResult :
    (withResult.withInputs [.readDesc 1]).cfg.wf = true ∧ ResInv (withResult.offer 0x0000) ∧
    (1 : Byte).toNat < withResult.resNseg.toNat ∧ (withResult.segment 1)[1]? = some 0x77 ∧
    (3 : Byte).toNat = (withResult.readBuf .resSegOff 1).toNat + 1 :=
  ⟨by decide, witness_withResult_ResInv, by decide, by decide, by decide⟩

theorem witness_UnspecifiedReadsAreFreshFreeBytes :
    (withResult.withInputs [.readDesc 2]).cfg.wf = true ∧
    (withResult.withInputs [.readDesc 2]).inputs = .readDesc 2 :: [] ∧
    withResult.resNseg.toNat ≤ (2 : Byte).toNat ∧
    (withResult.withInputs [.readData 4]).inputs = .readData 4 :: [] ∧
    (withResult.withInputs [.readData 4]).dataTotal ≤ (4 : Byte).toNat ∧ 254 ≤ (254 : Byte).toNat := by decide

theorem witness_HostActionsKeepToTheirSide :
    (withResult.withInputs [.readData 0]).cfg.wf = true ∧
    (withResult.withInputs [.readData 0]).inputs = .readData 0 :: [] ∧
    (withResult.withInputs [.readDesc 0]).inputs = .readDesc 0 :: [] ∧
    (withResult.withInputs [.rst]).inputs = .rst :: [] := by decide

end Sys2Proof.Tests
end

section
/-!
PROOFS. The scope of the block: which configurations are well-formed, and that the step refuses every other one
(00_scope.md R6; log 4).
-/

namespace Sys2Proof

/-- 00_scope.md R6: the six comparisons of `Config.wf` are exactly the pairs of the four command codes. -/
theorem Config.wf_iff_nodup (c : Config) :
    c.wf = true ↔ [c.cmdUnknown, c.cmdBadChecksum, c.cmdWifiSettings, c.cmdCustom].Nodup := by
  simp only [Config.wf, Bool.and_eq_true, bne_iff_ne, List.nodup_cons, List.mem_cons, List.not_mem_nil,
    List.nodup_nil, not_or, not_false_eq_true, and_true, and_assoc]

namespace Machine

/-- The configuration is checked before the host's action is looked at (log 4). -/
theorem step_of_not_wf {s : State} (h : s.cfg.wf = false) : step s = .refused .illFormedConfig :=
  if_neg (Bool.eq_false_iff.1 h)

/-- Settles O9: `Config.wf` compares each pair of the codes once, and `step` tests it before anything else. -/
theorem illFormedConfigurationIsRefused : Obligations.IllFormedConfigurationIsRefused :=
  ⟨Config.wf_iff_nodup, fun _ => step_of_not_wf⟩

end Machine

end Sys2Proof
end

section
/-!
PROOFS. What every step keeps: one rule for a property of the block's own registers and buffers, and the parameters
as its first use (10_state.md R39).
-/

namespace Sys2Proof.Machine

/-- `s` with the fields that no invariant of the block speaks of replaced: `LAST_EVT`, `evt_valid` and the host's
own side (log 5, 6, 9). A report, a pulse, an idle step and a port read are each this update. -/
def State.withPortSide (s : State) (e : Event) (v : Bool) (ins : List PortInput) (r : PortRead) (k : Nat) :
    State :=
  { s with lastEvt := e, evtValid := v, inputs := ins, lastRead := r, draws := k }

/-- A property that does not speak of the port side, that reset gives and every command keeps, is kept by every
step. -/
theorem step_keeps {P : State → Prop}
    (ports : ∀ s e v ins r k, P s → P (s.withPortSide e v ins r k))
    (reset : ∀ s, P s → P (State.resetWith s.cfg))
    (command : ∀ i s, P s → P (after i s))
    {s t : State} (hs : P s) (h : step s = .next t) : P t := by
  have taken (rest : List PortInput) : P (s.withInputs rest) := ports s _ _ rest _ _ hs
  obtain ⟨-, ⟨-, rfl⟩ | ⟨w, rest, i, u, -, -, hu, rfl⟩ | ⟨w, rest, r, -, -, rfl⟩ | ⟨rest, -, rfl⟩ |
    ⟨rest, idx, -, rfl⟩ | ⟨rest, idx, -, rfl⟩⟩ := step_cases h
  · exact ports s _ false _ _ _ hs
  · obtain rfl : after i (s.withInputs rest) = u := by simpa [exec_after] using hu
    exact ports _ _ true _ _ _ (command i _ (taken rest))
  · exact ports (s.withInputs rest) .illegal true _ _ _ (taken rest)
  · exact ports _ _ _ _ _ _ (reset _ (taken rest))
  · exact ports _ _ _ _ _ _ (taken rest)
  · exact ports _ _ _ _ _ _ (taken rest)

/-! `FEED` of any outcome leaves the parameters and the frame buffer alone. -/

@[simp] theorem State.afterFeed_cfg (s : State) (d : Byte) (r : SyncResult) :
    (s.afterFeed d r).cfg = s.cfg := by cases r <;> rfl
@[simp] theorem State.afterFeed_frmBuf (s : State) (d : Byte) (r : SyncResult) :
    (s.afterFeed d r).frmBuf = s.frmBuf := by cases r <;> rfl
@[simp] theorem State.afterFeed_frmLen (s : State) (d : Byte) (r : SyncResult) :
    (s.afterFeed d r).frmLen = s.frmLen := by cases r <;> rfl
@[simp] theorem State.afterFeed_frmOvf (s : State) (d : Byte) (r : SyncResult) :
    (s.afterFeed d r).frmOvf = s.frmOvf := by cases r <;> rfl

/-! The two outcomes of `FLOAD` (41_frame_codec.md R129). -/

theorem after_fload_of_lt {s : State} (d : Byte) (h : s.frmLen.toNat < nFrm) :
    after (.fload d) s = (s.pushFrame d).report .done := by simp only [after, if_pos h]

theorem after_fload_of_not_lt {s : State} (d : Byte) (h : ¬ s.frmLen.toNat < nFrm) :
    after (.fload d) s = s.overflowFrame.report .done := by simp only [after, if_neg h]

/-- No command writes the parameters. -/
@[simp] theorem after_cfg (i : Instr) (s : State) : (after i s).cfg = s.cfg := by
  cases i with
  | feed d => exact State.afterFeed_cfg s d _
  | fload d =>
    by_cases h : s.frmLen.toNat < nFrm
    · rw [after_fload_of_lt d h]; rfl
    · rw [after_fload_of_not_lt d h]; rfl
  | nop | srst | fclr | fdec => rfl

/-- Settles O56: commands keep the parameters (`after_cfg`), reset starts again from them, and the port side does
not hold them. -/
theorem stepKeepsTheParameters : Obligations.StepKeepsTheParameters := fun s _ h =>
  step_keeps (P := fun u => u.cfg = s.cfg) (fun _ _ _ _ _ _ hu => hu) (fun _ hu => hu)
    (fun i u hu => (after_cfg i u).trans hu) rfl h

end Sys2Proof.Machine
end

section
/-!
PROOFS. The synchronizer: when a `FEED` goes on, the invariant of `SYNC_POS` and `SYNC_HIST` (10_state.md R29, R30),
and the history as the bytes of the frame (60_exceptions.md R211).
-/

namespace Sys2Proof.Machine

theorem feedChecksum_ne_cont (c : Config) (b : Byte) (h : List Byte) (n : Nat) :
    feedChecksum c b h n ≠ .cont := by
  unfold feedChecksum
  split
  · simp
  · split <;> simp

/-- What a byte that is answered `CONTINUE` has passed: the preamble and version checks (43_stream_sync.md R171,
R172) and, once the length is in, the end of the payload (R174). -/
theorem feedByte_eq_cont_iff (c : Config) (p : Nat) (b : Byte) (h : List Byte) :
    feedByte c p b h = .cont ↔
      (p ≤ 5 → magic[p]? = some b) ∧ (p = 6 → b = c.version) ∧
        (9 ≤ p → ∃ n, h[8]? = some n ∧ p ≤ 8 + n.toNat) := by
  unfold feedByte
  by_cases h5 : p ≤ 5
  · have h6 : p ≠ 6 := by omega
    have h9 : ¬ 9 ≤ p := by omega
    simp [h5, h6, h9]
  by_cases h6 : p = 6
  · simp [h6]
  by_cases h8 : p ≤ 8
  · have h9 : ¬ 9 ≤ p := by omega
    simp [h5, h6, h8, h9]
  have h9 : 9 ≤ p := by omega
  cases h[8]? with
  | none => simp [h5, h6, h8, h9]
  | some n =>
    by_cases hn : p ≤ 8 + n.toNat
    · simp [h5, h6, h8, hn]
    · simp only [h5, h6, h8, h9, hn, if_false, false_implies, true_and, true_implies, Option.some_inj,
        exists_eq_left', iff_false]
      split
      · exact feedChecksum_ne_cont c b h n.toNat
      · simp

/-- The invariant speaks of the parameters, `SYNC_POS` and `SYNC_HIST` alone. -/
theorem SyncInv.congr {s t : State} (h : SyncInv s) (hc : t.cfg = s.cfg) (hp : t.syncPos = s.syncPos)
    (hh : t.syncHist = s.syncHist) : SyncInv t := by
  have hr (i : Nat) : t.readBuf .syncHist i = s.readBuf .syncHist i := State.readBuf_congr (n := .syncHist) hh i
  obtain ⟨pos_le, written, extent, preamble, version⟩ := h
  constructor <;> simpa only [hc, hp, hh, hr]

/-- At position 0 nothing is asked of the history. -/
theorem SyncInv.of_pos_zero {s : State} (h : s.syncPos = 0) : SyncInv s := by
  have h0 : s.syncPos.toNat = 0 := by simp [h]
  constructor <;> simp [h0]

theorem SyncInv.pushHist {s : State} {d : Byte} (hs : SyncInv s)
    (hr : feedByte s.cfg s.syncPos.toNat d s.history = .cont) : SyncInv (s.pushHist d) := by
  have hlt : s.syncPos.toNat < nHist := pos_of_cont hr
  have hpos : (s.pushHist d).syncPos.toNat = s.syncPos.toNat + 1 :=
    s.pos_pushHist d (by simp only [nHist] at hlt; omega)
  obtain ⟨hmagic, hversion, hlen⟩ := (feedByte_eq_cont_iff _ _ _ _).1 hr
  constructor
  case pos_le => rw [hpos]; exact hlt
  case written =>
    intro i hi
    by_cases h : i = s.syncPos.toNat
    · simp [h]
    · rw [State.pushHist_syncHist, Memory.get?_write_other _ _ h]
      exact hs.written i (by omega)
  case extent =>
    intro h9
    by_cases h8 : s.syncPos.toNat = 8
    · omega
    · obtain ⟨n, hn, hle⟩ := hlen (by omega)
      rw [State.getElem?_history, if_pos (by omega), Option.some_inj] at hn
      rw [State.readBuf_pushHist_other s d (Ne.symm h8), hn]
      omega
  case preamble =>
    intro i hi6 hi
    by_cases h : i = s.syncPos.toNat
    · rw [h, State.readBuf_pushHist_self]
      exact hmagic (by omega)
    · rw [State.readBuf_pushHist_other s d h]
      exact hs.preamble i hi6 (by omega)
  case version =>
    intro h7
    rw [State.pushHist_cfg]
    by_cases h6 : s.syncPos.toNat = 6
    · have hself := State.readBuf_pushHist_self s d
      rw [h6] at hself
      exact hself.trans (hversion h6)
    · rw [State.readBuf_pushHist_other s d (Ne.symm h6)]
      exact hs.version (by omega)

/-- `FEED` keeps the invariant: a byte is stored only on `CONTINUE`, and every other outcome goes back to
position 0. -/
theorem SyncInv.after_feed {s : State} (hs : SyncInv s) (d : Byte) :
    SyncInv (after (.feed d) s) := by
  by_cases hr : feedByte s.cfg s.syncPos.toNat d s.history = .cont
  · simp only [after, hr]
    exact (hs.pushHist hr).congr rfl rfl rfl
  · exact .of_pos_zero (afterFeed_syncPos s d hr)

theorem SyncInv.after {s : State} (hs : SyncInv s) (i : Instr) : SyncInv (after i s) := by
  cases i with
  | feed d => exact hs.after_feed d
  | srst => exact .of_pos_zero rfl
  | fload d =>
    by_cases h : s.frmLen.toNat < nFrm
    · rw [after_fload_of_lt d h]; exact hs.congr rfl rfl rfl
    · rw [after_fload_of_not_lt d h]; exact hs.congr rfl rfl rfl
  | nop | fclr | fdec => exact hs.congr rfl rfl rfl

theorem SyncInv.resetWith (c : Config) : SyncInv (State.resetWith c) := .of_pos_zero rfl

/-- Settles O51: of the commands only `FEED` and `SRST` touch the synchronizer (`SyncInv.after`), and the bytes
`FEED` stores are those its checks let through (`SyncInv.pushHist`). -/
theorem stepKeepsTheSynchronizerInvariant : Obligations.StepKeepsTheSynchronizerInvariant := fun _ _ hs h =>
  step_keeps (fun _ _ _ _ _ _ hu => hu.congr rfl rfl rfl) (fun s _ => .resetWith s.cfg)
    (fun i _ hu => hu.after i) hs h

theorem State.history_of_pos_zero {s : State} (h : s.syncPos = 0) : s.history = [] := by
  simp [State.history, State.readRange, h]

theorem State.syncState_of_pos_zero {s : State} (h : s.syncPos = 0) : s.syncState = .preamble 0 := by
  simp [State.syncState, syncStateAt, h]

theorem eventOf_eq_cont_iff (r : SyncResult) : eventOf r = .cont ↔ r = .cont := by
  cases r <;> simp [eventOf]

/-- Settles O47: on `CONTINUE` the position is below `N_HIST`, so the byte is appended without wrapping; every other
outcome leaves position 0. -/
theorem historyHoldsTheBytesOfTheFrame : Obligations.HistoryHoldsTheBytesOfTheFrame := by
  intro d s
  refine ⟨_, exec_after (.feed d) s, ?_⟩
  have hevt : (after (.feed d) s).lastEvt = .cont ↔ feedByte s.cfg s.syncPos.toNat d s.history = .cont := by
    rw [← eventOf_eq_cont_iff, ← afterFeed_lastEvt s d]
    rfl
  rw [ne_eq, hevt]
  refine ⟨fun hr => ?_, fun hr => ?_⟩
  · have hlt : s.syncPos.toNat < nHist := pos_of_cont hr
    simp only [after, hr]
    exact s.history_pushHist d (by simp only [nHist] at hlt; omega)
  · have h0 : (after (.feed d) s).syncPos = 0 := afterFeed_syncPos s d hr
    exact ⟨State.history_of_pos_zero h0, State.syncState_of_pos_zero h0⟩

end Sys2Proof.Machine
end

section
/-!
PROOFS. The frame buffer: the invariant of `FRM_LEN`, `FRM_BUF` and `FRM_OVF` (10_state.md R31, R32, R33).
-/

namespace Sys2Proof.Machine

/-- The invariant speaks of the frame buffer's registers and entries alone. -/
theorem FrameInv.congr {s t : State} (h : FrameInv s) (hl : t.frmLen = s.frmLen) (hb : t.frmBuf = s.frmBuf)
    (ho : t.frmOvf = s.frmOvf) : FrameInv t := by
  obtain ⟨len_le, written, overflow⟩ := h
  constructor <;> simpa only [hl, hb, ho]

theorem FrameInv.of_empty {s : State} (hl : s.frmLen = 0) (ho : s.frmOvf = false) : FrameInv s := by
  constructor <;> simp [hl, ho]

/-- A byte loaded below the capacity is stored at the end of the frame; the buffer cannot have overflowed yet. -/
theorem FrameInv.pushFrame {s : State} (hs : FrameInv s) (d : Byte) (hlt : s.frmLen.toNat < nFrm) :
    FrameInv (s.pushFrame d) := by
  have hlen : (s.pushFrame d).frmLen.toNat = s.frmLen.toNat + 1 :=
    s.len_pushFrame d (by simp only [nFrm] at hlt; omega)
  constructor
  case len_le => rw [hlen]; exact hlt
  case written =>
    intro i hi
    by_cases h : i = s.frmLen.toNat
    · simp [h]
    · rw [State.pushFrame_frmBuf, Memory.get?_write_other _ _ h]
      exact hs.written i (by omega)
  case overflow =>
    intro ho
    exact absurd (hs.overflow ho) (by omega)

/-- `FRM_OVF` is set only when the buffer is full. -/
theorem FrameInv.overflowFrame {s : State} (hs : FrameInv s) (hge : ¬ s.frmLen.toNat < nFrm) :
    FrameInv s.overflowFrame :=
  ⟨hs.len_le, hs.written, fun _ => Nat.le_antisymm hs.len_le (Nat.le_of_not_lt hge)⟩

theorem FrameInv.after {s : State} (hs : FrameInv s) (i : Instr) : FrameInv (after i s) := by
  cases i with
  | fload d =>
    by_cases h : s.frmLen.toNat < nFrm
    · rw [after_fload_of_lt d h]; exact (hs.pushFrame d h).congr rfl rfl rfl
    · rw [after_fload_of_not_lt d h]; exact (hs.overflowFrame h).congr rfl rfl rfl
  | fclr => exact .of_empty rfl rfl
  | feed d => exact hs.congr (s.afterFeed_frmLen d _) (s.afterFeed_frmBuf d _) (s.afterFeed_frmOvf d _)
  | nop | srst | fdec => exact hs.congr rfl rfl rfl

theorem FrameInv.resetWith (c : Config) : FrameInv (State.resetWith c) := .of_empty rfl rfl

/-- Settles O52: `FLOAD` is the one command that adds to the frame, and it adds one byte below the capacity or sets
`FRM_OVF` at it (`FrameInv.after`). -/
theorem stepKeepsTheFrameBufferInvariant : Obligations.StepKeepsTheFrameBufferInvariant := fun _ _ hs h =>
  step_keeps (fun _ _ _ _ _ _ hu => hu.congr rfl rfl rfl) (fun s _ => .resetWith s.cfg)
    (fun i _ hu => hu.after i) hs h

end Sys2Proof.Machine
end

section
/-!
PROOFS. The segments of a decoded frame: the segment decoder uses up the payload (42_segment_decoder.md R153), so every
result a command writes fits the bank (10_state.md R24, R26).
-/

namespace Sys2Proof.Machine

/-- A successful `segment_decode` is either at its boundary, or takes one segment and goes on behind it. -/
theorem segmentDecode_cases {f : List Byte} {c b : Nat} {segs : List (List Byte)}
    (h : segmentDecode f c b = some segs) :
    (b ≤ c ∧ segs = []) ∨
    (c < b ∧ ∃ (n : Byte) (rest : List (List Byte)), c + 1 + n.toNat ≤ b ∧
      segs = slice f (c + 1) (c + 1 + n.toNat) :: rest ∧ segmentDecode f (c + 1 + n.toNat) b = some rest) := by
  rcases Nat.lt_or_ge c b with hc | hc
  · right
    rw [segmentDecode_of_lt f hc] at h
    split at h
    · simp at h
    · next n _ =>
      split at h
      · simp at h
      · next hle =>
        obtain ⟨rest, hrest, rfl⟩ := Option.map_eq_some_iff.1 h
        exact ⟨hc, n, rest, by omega, rfl, hrest⟩
  · left
    rw [segmentDecode_of_ge f hc] at h
    exact ⟨hc, (Option.some_inj.1 h).symm⟩

/-- The segments, each with its length byte, are as long as what was decoded. -/
theorem length_packSegments_of_segmentDecode {f : List Byte} {b : Nat} (hb : b ≤ f.length)
    {segs : List (List Byte)} {c : Nat} (hc : c ≤ b) (h : segmentDecode f c b = some segs) :
    (packSegments segs).length = b - c := by
  induction segs generalizing c with
  | nil =>
    obtain ⟨hge, -⟩ | ⟨-, n, rest, -, hseg, -⟩ := segmentDecode_cases h
    · simp [packSegments]; omega
    · simp at hseg
  | cons seg segs ih =>
    obtain ⟨-, hseg⟩ | ⟨-, n, rest, hle, hseg, hrest⟩ := segmentDecode_cases h
    · simp at hseg
    · obtain ⟨rfl, rfl⟩ := List.cons.inj hseg
      have hlen := ih hle hrest
      have hslice := length_slice f (c + 1) (c + 1 + n.toNat) (by omega)
      simp only [packSegments, List.length_cons, List.length_append, hlen, hslice]
      omega

theorem length_packSegments_eq_add (segs : List (List Byte)) :
    (packSegments segs).length = segs.length + segs.flatten.length := by
  induction segs with
  | nil => rfl
  | cons seg segs ih => simp [packSegments, ih]; omega

/-- The result `p` is one the bank can hold for the configuration `c`: the sentinel command of its status, no
segments where R24 allows none, and at most the segments and bytes the tables have room for. -/
structure Bankable (c : Config) (p : ParsedCommand) : Prop where
  failed : p.status ≠ .ok → p.data = []
  single : isMulti c p.command = false → p.data = []
  malformedCmd : p.status = .malformed → p.command = c.cmdUnknown
  badChecksumCmd : p.status = .badChecksum → p.command = c.cmdBadChecksum
  segs_le : p.data.length ≤ 255
  bytes_le : p.data.flatten.length ≤ 254

theorem bankable_malformed (c : Config) : Bankable c (malformed c) := by constructor <;> simp [malformed]

theorem bankable_badChecksum (c : Config) : Bankable c (badChecksum c) := by
  constructor <;> simp [badChecksum]

theorem bankable_ok_nil (c : Config) (t : Byte) : Bankable c ⟨.ok, t, []⟩ := by constructor <;> simp

theorem bankable_segments {c : Config} {t : Byte} (ht : isMulti c t = true) {segs : List (List Byte)}
    (hlen : (packSegments segs).length ≤ 255) : Bankable c ⟨.ok, t, segs⟩ := by
  rw [length_packSegments_eq_add] at hlen
  refine ⟨by simp, by simp [ht], by simp, by simp, Nat.le_of_add_right_le hlen, ?_⟩
  cases segs with
  | nil => simp
  | cons seg segs =>
    change (seg :: segs).flatten.length ≤ 254
    rw [List.length_cons] at hlen
    omega

/-- The declared length is a byte, so the payload of a frame that passes the length check has at most 255 bytes
(41_frame_codec.md R123). -/
theorem payload_le_of_lengthOk {f : List Byte} {l : Byte} {v : Bool} (h : lengthOk f l v = true) :
    2 ≤ f.length - checksumOffset v ∧ f.length - checksumOffset v - 2 ≤ 255 := by
  have hl := l.isLt
  simp only [lengthOk, decide_eq_true_eq] at h
  omega

theorem bankable_decodeFrame (c : Config) (f : List Byte) (v : Bool) : Bankable c (decodeFrame c f v) := by
  obtain h | h | ⟨t, -, h⟩ | ⟨t, l, rest, rfl, hl, ⟨-, h⟩ | ⟨ht, segs, hs, h⟩⟩ := decodeFrame_cases c f v
  · rw [h]; exact bankable_malformed c
  · rw [h]; exact bankable_badChecksum c
  · rw [h]; exact bankable_ok_nil c t
  · rw [h]; exact bankable_ok_nil c t
  · obtain ⟨hge, hle⟩ := payload_le_of_lengthOk hl
    have hlen := length_packSegments_of_segmentDecode (Nat.sub_le _ _) hge hs
    rw [h]
    exact bankable_segments ht (by omega)

theorem bankable_fdecResult (v : Bool) (s : State) : Bankable s.cfg (fdecResult v s) := by
  unfold fdecResult
  split
  · exact bankable_malformed s.cfg
  · exact bankable_decodeFrame s.cfg s.frame v

end Sys2Proof.Machine
end

section
/-!
PROOFS. The descriptor layout: what the bank holds after `write_result` (10_state.md R25, R26, R27, log 10).
-/

namespace Sys2Proof.Machine

theorem flatten_eq_take_getElem_drop (l : List (List Byte)) (i : Nat) (h : i < l.length) :
    l.flatten = (l.take i).flatten ++ (l[i] ++ (l.drop (i + 1)).flatten) := by
  rw [← List.flatten_cons, List.getElem_cons_drop, ← List.flatten_append, List.take_append_drop]

theorem length_flatten_take_succ (l : List (List Byte)) (i : Nat) (h : i < l.length) :
    (l.take (i + 1)).flatten.length = (l.take i).flatten.length + l[i].length := by
  rw [List.take_succ_eq_append_getElem h, List.flatten_append, List.length_append, List.flatten_singleton]

theorem length_flatten_take_le (l : List (List Byte)) (i : Nat) :
    (l.take i).flatten.length ≤ l.flatten.length :=
  (List.take_sublist i l).flatten.length_le

section
variable {c : Config} {p : ParsedCommand} (hp : Bankable c p) (s : State)
include hp

theorem writeResult_nseg : (s.writeResult p).resNseg.toNat = p.data.length := by
  have := hp.segs_le
  rw [State.writeResult_resNseg, BitVec.toNat_ofNat]
  omega

theorem writeResult_off {i : Nat} (h : i < p.data.length) :
    ((s.writeResult p).readBuf .resSegOff i).toNat = (p.data.take i).flatten.length := by
  have hle := length_flatten_take_le p.data i
  have := hp.bytes_le
  have hget : ((s.writeResult p).buf .resSegOff).get? i = _ :=
    (Memory.get?_ofBytes _ i).trans (getElem?_segOffsets p.data 0 i h)
  rw [State.readBuf_of_get? hget, BitVec.toNat_ofNat]
  omega

theorem writeResult_len {i : Nat} (h : i < p.data.length) :
    ((s.writeResult p).readBuf .resSegLen i).toNat = p.data[i].length := by
  have hle := length_flatten_take_le p.data (i + 1)
  rw [length_flatten_take_succ p.data i h] at hle
  have := hp.bytes_le
  have hget : ((s.writeResult p).buf .resSegLen).get? i = some (BitVec.ofNat 8 p.data[i].length) := by
    simp [h]
  rw [State.readBuf_of_get? hget, BitVec.toNat_ofNat]
  omega

theorem writeResult_dataTotal : (s.writeResult p).dataTotal = p.data.flatten.length := by
  rw [State.dataTotal, writeResult_nseg hp]
  split
  · next h => simp [List.length_eq_zero_iff.1 h]
  · next h =>
    have hlt : p.data.length - 1 < p.data.length := by omega
    rw [writeResult_off hp s hlt, writeResult_len hp s hlt, ← length_flatten_take_succ p.data _ hlt,
      Nat.sub_add_cancel (by omega), List.take_length]

/-- A segment read back through its descriptor is the segment written. -/
theorem writeResult_segment {i : Nat} (h : i < p.data.length) : (s.writeResult p).segment i = p.data[i] := by
  rw [State.segment, writeResult_off hp s h, writeResult_len hp s h]
  apply List.ext_getElem?
  intro j
  rw [State.getElem?_readRange]
  split
  · next hj =>
    have hbyte : p.data.flatten[(p.data.take i).flatten.length + j]? = some p.data[i][j] := by
      rw [flatten_eq_take_getElem_drop p.data i h, List.getElem?_append_right (Nat.le_add_right _ _),
        Nat.add_sub_cancel_left, List.getElem?_append_left hj, List.getElem?_eq_getElem hj]
    have hget : ((s.writeResult p).buf .resData).get? _ = _ := (Memory.get?_ofBytes _ _).trans hbyte
    rw [State.readBuf_of_get? hget, List.getElem?_eq_getElem hj]
  · next hj => rw [List.getElem?_eq_none (by omega)]

/-- The bank holds exactly the result written. -/
theorem writeResult_res : (s.writeResult p).res = valueOf p := by
  have hsegs : (List.range p.data.length).map (s.writeResult p).segment = p.data := by
    apply List.ext_getElem
    · simp
    · intro i _ hi
      simp [writeResult_segment hp s hi]
  rw [State.res, writeResult_nseg hp, hsegs]
  rfl

end

/-- A result without segments, as R24 asks of every status but `OK`. -/
theorem ResInv.res_of_ne_ok {s : State} (hs : ResInv s) (h : s.resStatus ≠ .ok) :
    s.res = ⟨s.resStatus, s.resCmd, []⟩ := by
  simp [State.res, hs.failed h]

/-- Settles O27: every result of `decode_frame` fits the tables (`bankable_decodeFrame`), so none of its offsets and
lengths wraps and each descriptor leads back to its segment (`writeResult_segment`). -/
theorem bankValueIsTheWrittenResult : Obligations.BankValueIsTheWrittenResult := by
  refine ⟨fun s c f v => writeResult_res (bankable_decodeFrame c f v) s, fun s hs hnone => ?_⟩
  rw [hs.res_of_ne_ok (by simp [hnone]), hnone, hs.noneCmd hnone]

end Sys2Proof.Machine
end

section
/-!
PROOFS. The invariant of the result bank (10_state.md R22 to R27).
-/

namespace Sys2Proof.Machine

/-- The invariant speaks of the parameters and the bank alone. -/
theorem ResInv.congr {s t : State} (h : ResInv s) (hc : t.cfg = s.cfg) (hst : t.resStatus = s.resStatus)
    (hcmd : t.resCmd = s.resCmd) (hn : t.resNseg = s.resNseg) (ho : t.resSegOff = s.resSegOff)
    (hl : t.resSegLen = s.resSegLen) (hd : t.resData = s.resData) : ResInv t := by
  have hoff (i : Nat) : t.readBuf .resSegOff i = s.readBuf .resSegOff i :=
    State.readBuf_congr (n := .resSegOff) ho i
  have hlen (i : Nat) : t.readBuf .resSegLen i = s.readBuf .resSegLen i :=
    State.readBuf_congr (n := .resSegLen) hl i
  have htotal : t.dataTotal = s.dataTotal := by simp only [State.dataTotal, hn, hoff, hlen]
  obtain ⟨failed, single, noneCmd, malformedCmd, badChecksumCmd, offWritten, lenWritten, firstOff, nextOff,
    total_le, dataWritten⟩ := h
  constructor <;> simpa only [hc, hst, hcmd, hn, ho, hl, hd, hoff, hlen, htotal]

theorem statusOf_ne_none (st : ParseStatus) : statusOf st ≠ .none := by cases st <;> simp [statusOf]

theorem statusOf_eq_ok_iff (st : ParseStatus) : statusOf st = .ok ↔ st = .ok := by
  cases st <;> simp [statusOf]

theorem statusOf_eq_malformed_iff (st : ParseStatus) : statusOf st = .malformed ↔ st = .malformed := by
  cases st <;> simp [statusOf]

theorem statusOf_eq_badChecksum_iff (st : ParseStatus) :
    statusOf st = .badChecksum ↔ st = .badChecksum := by cases st <;> simp [statusOf]

/-- `write_result` of a result that fits gives the invariant, whatever the bank held before. -/
theorem ResInv.writeResult {s : State} {p : ParsedCommand} (hp : Bankable s.cfg p) :
    ResInv (s.writeResult p) := by
  have hnseg := writeResult_nseg hp s
  have htotal := writeResult_dataTotal hp s
  constructor
  case failed =>
    intro h
    have hst : p.status ≠ .ok := by rwa [ne_eq, ← statusOf_eq_ok_iff]
    simp [hp.failed hst]
  case single =>
    intro h
    simp [hp.single h]
  case noneCmd => exact fun h => absurd h (statusOf_ne_none p.status)
  case malformedCmd => exact fun h => hp.malformedCmd ((statusOf_eq_malformed_iff _).1 h)
  case badChecksumCmd => exact fun h => hp.badChecksumCmd ((statusOf_eq_badChecksum_iff _).1 h)
  case offWritten =>
    intro i hi
    rw [hnseg] at hi
    simp [getElem?_segOffsets p.data 0 i hi]
  case lenWritten =>
    intro i hi
    rw [hnseg] at hi
    simp [hi]
  case firstOff =>
    intro h
    rw [hnseg] at h
    exact BitVec.eq_of_toNat_eq (by simp [writeResult_off hp s h])
  case nextOff =>
    intro i hi
    rw [hnseg] at hi
    have hlt : i < p.data.length := by omega
    rw [writeResult_off hp s hi, writeResult_off hp s hlt, writeResult_len hp s hlt,
      length_flatten_take_succ p.data i hlt]
  case total_le => rw [htotal]; exact hp.bytes_le
  case dataWritten =>
    intro i hi
    rw [htotal] at hi
    simp [-List.length_flatten, hi]

/-- `FEED` writes a result only on `ACCEPT`, and then one of `decode_frame` (43_stream_sync.md R176). -/
theorem ResInv.after_feed {s : State} (hs : ResInv s) (d : Byte) : ResInv (after (.feed d) s) := by
  change ResInv (s.afterFeed d _)
  cases hr : feedByte s.cfg s.syncPos.toNat d s.history with
  | accept r =>
    obtain ⟨n, -, -, -, rfl⟩ := result_of_accept hr
    exact (ResInv.writeResult (bankable_decodeFrame s.cfg _ _)).congr rfl rfl rfl rfl rfl rfl rfl
  | cont | desync | checksumError | dropped => exact hs.congr rfl rfl rfl rfl rfl rfl rfl

theorem ResInv.after {s : State} (hs : ResInv s) (i : Instr) : ResInv (after i s) := by
  cases i with
  | feed d => exact hs.after_feed d
  | fdec v => exact (ResInv.writeResult (bankable_fdecResult v s)).congr rfl rfl rfl rfl rfl rfl rfl
  | fload d =>
    by_cases h : s.frmLen.toNat < nFrm
    · rw [after_fload_of_lt d h]; exact hs.congr rfl rfl rfl rfl rfl rfl rfl
    · rw [after_fload_of_not_lt d h]; exact hs.congr rfl rfl rfl rfl rfl rfl rfl
  | nop | srst | fclr => exact hs.congr rfl rfl rfl rfl rfl rfl rfl

theorem ResInv.resetWith (c : Config) : ResInv (State.resetWith c) := by
  constructor <;> simp [State.resetWith, State.dataTotal]

/-- Settles O53: `FDEC` and an accepting `FEED` replace the bank by a result that fits it (`ResInv.writeResult`); no
other command touches it. -/
theorem stepKeepsTheResultBankInvariant : Obligations.StepKeepsTheResultBankInvariant := fun _ _ hs h =>
  step_keeps (fun _ _ _ _ _ _ hu => hu.congr rfl rfl rfl rfl rfl rfl rfl) (fun s _ => .resetWith s.cfg)
    (fun i _ hu => hu.after i) hs h

end Sys2Proof.Machine
end

section
/-!
PROOFS. What a command does depends on the visible part of the state alone: hidden entries of the buffers never
matter (10_state.md R29, R31, R38, 20_memory.md R57).
-/

namespace Sys2Proof.Machine

/-- A report leaves history, frame and result alone. -/
theorem SameVisible.report {s t : State} (h : SameVisible s t) (e : Event) :
    SameVisible (s.report e) (t.report e) :=
  ⟨h.cfg, h.syncPos, h.history, h.frmLen, h.frame, h.frmOvf, rfl, h.res⟩

theorem SameVisible.restartSync {s t : State} (h : SameVisible s t) :
    SameVisible s.restartSync t.restartSync :=
  { h with syncPos := rfl, history := rfl }

theorem SameVisible.pushHist {s t : State} (h : SameVisible s t) (d : Byte) (hlt : s.syncPos.toNat < nHist) :
    SameVisible (s.pushHist d) (t.pushHist d) := by
  simp only [nHist] at hlt
  have hhist : (s.pushHist d).history = (t.pushHist d).history := by
    rw [s.history_pushHist d (by omega), t.history_pushHist d (by rw [← h.syncPos]; omega), h.history]
  exact { h with syncPos := congrArg (· + 1) h.syncPos, history := hhist }

theorem SameVisible.pushFrame {s t : State} (h : SameVisible s t) (d : Byte) (hlt : s.frmLen.toNat < nFrm) :
    SameVisible (s.pushFrame d) (t.pushFrame d) := by
  simp only [nFrm] at hlt
  have hframe : (s.pushFrame d).frame = (t.pushFrame d).frame := by
    rw [s.frame_pushFrame d (by omega), t.frame_pushFrame d (by rw [← h.frmLen]; omega), h.frame]
  exact { h with frmLen := congrArg (· + 1) h.frmLen, frame := hframe }

theorem SameVisible.overflowFrame {s t : State} (h : SameVisible s t) :
    SameVisible s.overflowFrame t.overflowFrame :=
  { h with frmOvf := rfl }

theorem SameVisible.clearFrame {s t : State} (h : SameVisible s t) : SameVisible s.clearFrame t.clearFrame :=
  { h with frmLen := rfl, frame := rfl, frmOvf := rfl }

theorem SameVisible.writeResult {s t : State} (h : SameVisible s t) {p : ParsedCommand}
    (hp : Bankable s.cfg p) : SameVisible (s.writeResult p) (t.writeResult p) :=
  { h with res := (writeResult_res hp s).trans (writeResult_res hp t).symm }

/-- `FDEC` decodes the loaded frame and nothing beyond it. -/
theorem SameVisible.fdecResult_eq {s t : State} (h : SameVisible s t) (v : Bool) :
    fdecResult v t = fdecResult v s := by
  simp only [fdecResult, h.frmOvf, h.cfg, h.frame]

theorem SameVisible.after_fload {s t : State} (h : SameVisible s t) (d : Byte) :
    SameVisible (after (.fload d) s) (after (.fload d) t) := by
  have hlen : t.frmLen.toNat = s.frmLen.toNat := by rw [h.frmLen]
  by_cases hlt : s.frmLen.toNat < nFrm
  · rw [after_fload_of_lt d hlt, after_fload_of_lt d (hlen ▸ hlt)]
    exact (h.pushFrame d hlt).report .done
  · rw [after_fload_of_not_lt d hlt, after_fload_of_not_lt d (hlen ▸ hlt)]
    exact h.overflowFrame.report .done

/-- `FEED` passes `feed_byte` the position and the history, so both states have one outcome. -/
theorem SameVisible.after_feed {s t : State} (h : SameVisible s t) (d : Byte) :
    SameVisible (after (.feed d) s) (after (.feed d) t) := by
  have hout : feedByte t.cfg t.syncPos.toNat d t.history = feedByte s.cfg s.syncPos.toNat d s.history := by
    rw [h.cfg, h.syncPos, h.history]
  simp only [after, hout]
  cases hr : feedByte s.cfg s.syncPos.toNat d s.history with
  | cont => exact (h.pushHist d (pos_of_cont hr)).report .cont
  | accept r =>
    obtain ⟨n, -, -, -, rfl⟩ := result_of_accept hr
    exact (h.writeResult (bankable_decodeFrame s.cfg _ _)).restartSync.report .accept
  | desync => exact h.restartSync.report .desync
  | checksumError => exact h.restartSync.report .checksumError
  | dropped => exact h.restartSync.report .dropped

theorem SameVisible.after {s t : State} (h : SameVisible s t) (i : Instr) :
    SameVisible (after i s) (after i t) := by
  cases i with
  | nop => exact h.report .done
  | feed d => exact h.after_feed d
  | srst => exact h.restartSync.report .done
  | fload d => exact h.after_fload d
  | fclr => exact h.clearFrame.report .done
  | fdec v =>
    simp only [Machine.after, h.fdecResult_eq v]
    exact (h.writeResult (bankable_fdecResult v s)).report .done

/-- Settles O57: each update a command is made of keeps two states alike (`SameVisible.after`), since a command reads
the history, the frame and the parameters, and never an entry beyond them. -/
theorem hiddenEntriesNeverMatter : Obligations.HiddenEntriesNeverMatter := fun i s s' h =>
  ⟨after i s, after i s', exec_after i s, exec_after i s', h.after i⟩

end Sys2Proof.Machine
end

section
/-!
PROOFS. The ports: what the indexed reads return, and what they and `rst` leave alone (10_state.md R25, R26, R35, R38,
R55).
-/

namespace Sys2Proof.Machine

section
variable {s : State} {rest : List PortInput} {idx : Byte} (hc : s.cfg.wf = true)
include hc

theorem step_readDesc (h : s.inputs = .readDesc idx :: rest) :
    step s = .next ((s.withInputs rest).hostReadDesc idx) := by simp [step, hc, h]

theorem step_readData (h : s.inputs = .readData idx :: rest) :
    step s = .next ((s.withInputs rest).hostReadData idx) := by simp [step, hc, h]

theorem step_rst (h : s.inputs = .rst :: rest) : step s = .next (s.withInputs rest).applyReset := by
  simp [step, hc, h]

theorem step_idle (h : s.inputs = []) : step s = .next s.idle := by simp [step, hc, h]

end

theorem State.hostReadDesc_eq_recordRead (s : State) (idx : Byte) :
    s.hostReadDesc idx = s.recordRead
      (.desc ((s.descEntry .resSegOff idx).getD (Config.freeByte s.draws))
        ((s.descEntry .resSegLen idx).getD (Config.freeByte (s.draws + 1)))) 2 := rfl

theorem State.hostReadData_eq_recordRead (s : State) (idx : Byte) :
    s.hostReadData idx = s.recordRead (.data ((s.dataEntry idx).getD (Config.freeByte s.draws))) 1 := rfl

/-! The entries a port read sees do not depend on the host's list. -/

@[simp] theorem State.descEntry_withInputs (s : State) (rest : List PortInput) (n : BufName) (idx : Byte) :
    (s.withInputs rest).descEntry n idx = s.descEntry n idx := by cases n <;> rfl

@[simp] theorem State.dataEntry_withInputs (s : State) (rest : List PortInput) (idx : Byte) :
    (s.withInputs rest).dataEntry idx = s.dataEntry idx := rfl

/-- A written entry is what the block reads there. -/
theorem State.get?_eq_some_readBuf {s : State} {n : BufName} {i : Nat}
    (h : ((s.buf n).get? i).isSome = true) : (s.buf n).get? i = some (s.readBuf n i) := by
  obtain ⟨b, hb⟩ := Option.isSome_iff_exists.1 h
  rw [State.readBuf_of_get? hb, hb]

theorem State.descEntry_of_lt {s : State} {n : BufName} {idx : Byte} (h : idx.toNat < s.resNseg.toNat)
    (hw : ((s.buf n).get? idx.toNat).isSome = true) : s.descEntry n idx = some (s.readBuf n idx.toNat) := by
  rw [State.descEntry, if_pos h, State.get?_eq_some_readBuf hw]

/-- There is no descriptor 255, since `RES_NSEG` is a byte (R35). -/
theorem State.descEntry_of_unspecified {s : State} (n : BufName) {idx : Byte}
    (h : s.resNseg.toNat ≤ idx.toNat ∨ idx = 255) : s.descEntry n idx = none := by
  have hge : ¬ idx.toNat < s.resNseg.toNat := by
    rcases h with h | rfl
    · omega
    · have hlt : s.resNseg.toNat < 256 := s.resNseg.isLt
      have h255 : (255 : Byte).toNat = 255 := rfl
      omega
  rw [State.descEntry, if_neg hge]

theorem State.dataEntry_of_unspecified {s : State} {idx : Byte}
    (h : s.dataTotal ≤ idx.toNat ∨ 254 ≤ idx.toNat) : s.dataEntry idx = none := by
  rw [State.dataEntry, if_neg (by simp only [nData]; omega)]

theorem ResInv.dataEntry_of_lt {s : State} (hs : ResInv s) {idx : Byte} (h : idx.toNat < s.dataTotal) :
    s.dataEntry idx = some (s.readBuf .resData idx.toNat) := by
  rw [State.dataEntry, if_pos ⟨h, Nat.lt_of_lt_of_le h hs.total_le⟩]
  exact State.get?_eq_some_readBuf (n := .resData) (hs.dataWritten _ h)

/-- Each segment ends within the segments' total, since the offsets are those of concatenation. -/
theorem ResInv.segment_end_le {s : State} (hs : ResInv s) {i : Nat} (h : i < s.resNseg.toNat) :
    (s.readBuf .resSegOff i).toNat + (s.readBuf .resSegLen i).toNat ≤ s.dataTotal := by
  have hend : ∀ k, i + k < s.resNseg.toNat →
      (s.readBuf .resSegOff i).toNat + (s.readBuf .resSegLen i).toNat ≤
        (s.readBuf .resSegOff (i + k)).toNat + (s.readBuf .resSegLen (i + k)).toNat := by
    intro k hk
    induction k with
    | zero => exact Nat.le_refl _
    | succ k ih =>
      have hprev := ih (by omega)
      have hnext := hs.nextOff (i + k) hk
      rw [← Nat.add_assoc]
      omega
  have hlast := hend (s.resNseg.toNat - 1 - i) (by omega)
  rw [show i + (s.resNseg.toNat - 1 - i) = s.resNseg.toNat - 1 by omega] at hlast
  rwa [State.dataTotal, if_neg (by omega)]

/-- Settles O58: the invariant has every descriptor of the result and every byte of its segments written
(`ResInv.segment_end_le`), so no read of them is a free draw. -/
theorem portReadsReturnTheResult : Obligations.PortReadsReturnTheResult := by
  intro s rest hc hs
  refine ⟨fun idx hi hlt => ⟨_, step_readDesc hc hi, ?_⟩, fun idx i j b hi hlt hb hidx =>
    ⟨_, step_readData hc hi, ?_⟩⟩
  · have hoff : s.descEntry .resSegOff idx = _ := State.descEntry_of_lt hlt (hs.offWritten _ hlt)
    have hlen : s.descEntry .resSegLen idx = _ := State.descEntry_of_lt hlt (hs.lenWritten _ hlt)
    simp [State.hostReadDesc_eq_recordRead, hoff, hlen]
  · rw [State.segment, State.getElem?_readRange] at hb
    split at hb
    · next hj =>
      have hend := hs.segment_end_le hlt
      have hentry := hs.dataEntry_of_lt (idx := idx) (by omega)
      rw [hidx, Option.some_inj.1 hb] at hentry
      simp [State.hostReadData_eq_recordRead, hentry]
    · simp at hb

/-- Settles O59: at such an index the port has no entry, so the read takes the next free bytes. -/
theorem unspecifiedReadsAreFreshFreeBytes : Obligations.UnspecifiedReadsAreFreshFreeBytes := by
  intro s rest idx hc
  refine ⟨fun hi h => ⟨_, step_readDesc hc hi, ?_⟩, fun hi h => ⟨_, step_readData hc hi, ?_⟩⟩
  · simp [State.hostReadDesc_eq_recordRead, State.descEntry_of_unspecified _ h]
  · simp [State.hostReadData_eq_recordRead, State.dataEntry_of_unspecified h]

/-- Settles O60: a port read only records what it returned (`State.hostReadDesc_eq_recordRead`), and `rst` keeps the
host's fields. -/
theorem hostActionsKeepToTheirSide : Obligations.HostActionsKeepToTheirSide := by
  refine ⟨fun s rest idx hc hi => ?_, fun s rest hc hi => ⟨_, step_rst hc hi, rfl, rfl, rfl⟩⟩
  rcases hi with hi | hi
  · exact ⟨_, step_readDesc hc hi, rfl⟩
  · exact ⟨_, step_readData hc hi, rfl⟩

end Sys2Proof.Machine
end

section
/-!
PROOFS. The state after reset (10_state.md R37, 70_reset_and_hazards.md R232) and the status word (R34).
-/

namespace Sys2Proof.Machine

theorem resetWith_buf (c : Config) (n : BufName) : (State.resetWith c).buf n = [] := by cases n <;> rfl

/-- Settles O55: each invariant asks something only of entries that are counted, and reset counts none. -/
theorem resetMeetsTheInvariants : Obligations.ResetMeetsTheInvariants := fun c =>
  { sync := .resetWith c
    frame := .resetWith c
    res := .resetWith c
    bufs := fun n => by simp [resetWith_buf, Memory.wf, Memory.below] }

/-- Settles O11: the values are those of `State.resetWith`; nothing is offered, so the block waits, and its pulse is
low already. -/
theorem resetLeavesTheStatedValues : Obligations.ResetLeavesTheStatedValues := by
  refine ⟨fun c => ⟨rfl, rfl, rfl, rfl, rfl, rfl, rfl, fun n i => ?_, ?_, ?_⟩, fun c hc => step_idle hc rfl, rfl⟩
  · rw [resetWith_buf, Memory.get?_nil]
  · exact State.syncState_of_pos_zero rfl
  · exact (ResInv.resetWith c).res_of_ne_ok nofun

/-- The fields of the status word are the codes and the flag, whatever the codes are: 3, 2 and 1 bits side by side. -/
theorem statusWord_fields (s : State) :
    (statusWord s).extractLsb' 0 3 = eventCode s.lastEvt ∧
    (statusWord s).extractLsb' 3 2 = statusCode s.resStatus ∧
    (statusWord s).getLsbD 5 = s.frmOvf ∧ (statusWord s).extractLsb' 6 10 = 0 := by
  unfold statusWord
  generalize eventCode s.lastEvt = e
  generalize statusCode s.resStatus = r
  generalize s.frmOvf = o
  revert e r o
  decide

/-- Settles O29: the fields do not overlap (`statusWord_fields`), and the codes are those of R21 and R22. -/
theorem statusWordLayout : Obligations.StatusWordLayout := by
  intro s
  obtain ⟨hevt, hst, hovf, hzero⟩ := statusWord_fields s
  refine ⟨hevt.trans ?_, hst.trans ?_, hovf, hzero, hevt, hst⟩
  · cases s.lastEvt <;> rfl
  · cases s.resStatus <;> rfl

end Sys2Proof.Machine
end

section
/-!
PROOFS. The buffers: no command stores outside a buffer's index range (20_memory.md R50, R57; the canonical form is
the model's, log 8).
-/

namespace Sys2Proof.Machine

/-! Which updates store in which buffer. -/

@[simp] theorem State.buf_report (s : State) (e : Event) (n : BufName) : (s.report e).buf n = s.buf n := by
  cases n <;> rfl

@[simp] theorem State.buf_restartSync (s : State) (n : BufName) : s.restartSync.buf n = s.buf n := by
  cases n <;> rfl

@[simp] theorem State.buf_clearFrame (s : State) (n : BufName) : s.clearFrame.buf n = s.buf n := by
  cases n <;> rfl

@[simp] theorem State.buf_overflowFrame (s : State) (n : BufName) : s.overflowFrame.buf n = s.buf n := by
  cases n <;> rfl

@[simp] theorem State.buf_withPortSide (s : State) (e : Event) (v : Bool) (ins : List PortInput) (r : PortRead)
    (k : Nat) (n : BufName) : (s.withPortSide e v ins r k).buf n = s.buf n := by cases n <;> rfl

theorem State.buf_pushHist_of_ne (s : State) (d : Byte) {n : BufName} (h : n ≠ .syncHist) :
    (s.pushHist d).buf n = s.buf n := by
  cases n with
  | syncHist => exact absurd rfl h
  | frmBuf | resData | resSegOff | resSegLen => rfl

theorem State.buf_pushFrame_of_ne (s : State) (d : Byte) {n : BufName} (h : n ≠ .frmBuf) :
    (s.pushFrame d).buf n = s.buf n := by
  cases n with
  | frmBuf => exact absurd rfl h
  | syncHist | resData | resSegOff | resSegLen => rfl

/-- The invariant speaks of the buffers alone. -/
theorem BufInv.congr {s t : State} (h : BufInv s) (hb : ∀ n, t.buf n = s.buf n) : BufInv t := fun n => by
  rw [hb n]
  exact h n

theorem BufInv.report {s : State} (hs : BufInv s) (e : Event) : BufInv (s.report e) := hs.congr (s.buf_report e)

theorem BufInv.restartSync {s : State} (hs : BufInv s) : BufInv s.restartSync := hs.congr s.buf_restartSync

theorem BufInv.pushHist {s : State} (hs : BufInv s) (d : Byte) (hlt : s.syncPos.toNat < nHist) :
    BufInv (s.pushHist d) := by
  intro n
  by_cases hn : n = .syncHist
  · subst hn
    obtain ⟨hwf, hbelow⟩ := hs .syncHist
    exact ⟨Memory.wf_write _ _ d hwf, Memory.below_write _ _ _ d hbelow hlt⟩
  · rw [s.buf_pushHist_of_ne d hn]
    exact hs n

theorem BufInv.pushFrame {s : State} (hs : BufInv s) (d : Byte) (hlt : s.frmLen.toNat < nFrm) :
    BufInv (s.pushFrame d) := by
  intro n
  by_cases hn : n = .frmBuf
  · subst hn
    obtain ⟨hwf, hbelow⟩ := hs .frmBuf
    exact ⟨Memory.wf_write _ _ d hwf, Memory.below_write _ _ _ d hbelow hlt⟩
  · rw [s.buf_pushFrame_of_ne d hn]
    exact hs n

/-- `write_result` replaces the three tables whole, and a result that fits the bank fits each of them. -/
theorem BufInv.writeResult {s : State} (hs : BufInv s) {p : ParsedCommand} (hp : Bankable s.cfg p) :
    BufInv (s.writeResult p) := by
  intro n
  cases n with
  | syncHist => exact hs .syncHist
  | frmBuf => exact hs .frmBuf
  | resData => exact ⟨Memory.wf_ofBytes _, Memory.below_ofBytes _ _ hp.bytes_le⟩
  | resSegOff =>
    exact ⟨Memory.wf_ofBytes _, Memory.below_ofBytes _ _ ((length_segOffsets 0 p.data).trans_le hp.segs_le)⟩
  | resSegLen => exact ⟨Memory.wf_ofBytes _, Memory.below_ofBytes _ _ (List.length_map _ |>.trans_le hp.segs_le)⟩

/-- `FEED` stores a byte only on `CONTINUE`, which is never answered at the end of the history. -/
theorem BufInv.after_feed {s : State} (hs : BufInv s) (d : Byte) : BufInv (after (.feed d) s) := by
  change BufInv (s.afterFeed d _)
  cases hr : feedByte s.cfg s.syncPos.toNat d s.history with
  | cont => exact (hs.pushHist d (pos_of_cont hr)).report .cont
  | accept r =>
    obtain ⟨n, -, -, -, rfl⟩ := result_of_accept hr
    exact (hs.writeResult (bankable_decodeFrame s.cfg _ _)).restartSync.report .accept
  | desync => exact hs.restartSync.report .desync
  | checksumError => exact hs.restartSync.report .checksumError
  | dropped => exact hs.restartSync.report .dropped

theorem BufInv.after_fload {s : State} (hs : BufInv s) (d : Byte) : BufInv (after (.fload d) s) := by
  by_cases h : s.frmLen.toNat < nFrm
  · rw [after_fload_of_lt d h]
    exact (hs.pushFrame d h).report .done
  · rw [after_fload_of_not_lt d h]
    exact (hs.congr s.buf_overflowFrame).report .done

theorem BufInv.after {s : State} (hs : BufInv s) (i : Instr) : BufInv (after i s) := by
  cases i with
  | nop => exact hs.report .done
  | feed d => exact hs.after_feed d
  | srst => exact hs.restartSync.report .done
  | fload d => exact hs.after_fload d
  | fclr => exact (hs.congr s.buf_clearFrame).report .done
  | fdec v => exact (hs.writeResult (bankable_fdecResult v s)).report .done

theorem BufInv.resetWith (c : Config) : BufInv (State.resetWith c) := (resetMeetsTheInvariants c).bufs

/-- Settles O54: `FEED` and `FLOAD` store one byte below the buffer's size (`BufInv.pushHist`, `BufInv.pushFrame`),
and a written result fits the tables (`BufInv.writeResult`). -/
theorem stepKeepsTheBuffersInBounds : Obligations.StepKeepsTheBuffersInBounds := fun _ _ hs h =>
  step_keeps (fun u e v ins r k hu => hu.congr (u.buf_withPortSide e v ins r k)) (fun s _ => .resetWith s.cfg)
    (fun i _ hu => hu.after i) hs h

end Sys2Proof.Machine
end

section
/-!
PROOFS. What the commands leave unchanged: for each part of the state, the commands that can change it, and from these
the frame of each command (20_memory.md R51, R58).
-/

namespace Sys2Proof.Machine

theorem eq_after_of_exec {i : Instr} {s t : State} (h : exec i s = .next t) : t = after i s := by
  rw [exec_after] at h
  exact (Host.Outcome.next.inj h).symm

/-- `FLOAD` is one of two updates (41_frame_codec.md R129), for what both leave unchanged. -/
theorem after_fload_eq_or (s : State) (d : Byte) :
    after (.fload d) s = (s.pushFrame d).report .done ∨ after (.fload d) s = s.overflowFrame.report .done := by
  by_cases h : s.frmLen.toNat < nFrm
  · exact .inl (after_fload_of_lt d h)
  · exact .inr (after_fload_of_not_lt d h)

/-! Two states with the same registers and tables are the same entry for entry. -/

theorem SameBank.of_eq {s t : State} (hst : t.resStatus = s.resStatus) (hcmd : t.resCmd = s.resCmd)
    (hn : t.resNseg = s.resNseg) (ho : t.resSegOff = s.resSegOff) (hl : t.resSegLen = s.resSegLen)
    (hd : t.resData = s.resData) : SameBank s t := by
  constructor <;> simp only [hst, hcmd, hn, ho, hl, hd, implies_true]

theorem SameBank.trans {s t u : State} (h : SameBank s t) (h' : SameBank t u) : SameBank s u :=
  ⟨h'.status.trans h.status, h'.cmd.trans h.cmd, h'.nseg.trans h.nseg, fun i => (h'.off i).trans (h.off i),
    fun i => (h'.len i).trans (h.len i), fun i => (h'.data i).trans (h.data i)⟩

theorem sameBank_withPortSide (s : State) (e : Event) (v : Bool) (ins : List PortInput) (r : PortRead) (k : Nat) :
    SameBank s (s.withPortSide e v ins r k) := .of_eq rfl rfl rfl rfl rfl rfl

theorem SameFrameBuffer.of_eq {s t : State} (hl : t.frmLen = s.frmLen) (ho : t.frmOvf = s.frmOvf)
    (hb : t.frmBuf = s.frmBuf) : SameFrameBuffer s t := ⟨hl, ho, fun _ => by rw [hb]⟩

theorem SameSync.of_eq {s t : State} (hp : t.syncPos = s.syncPos) (hh : t.syncHist = s.syncHist) :
    SameSync s t := ⟨hp, fun _ => by rw [hh]⟩

/-! What a `FEED` of outcome `r` does (43_stream_sync.md R180). -/

theorem sameHostSide_afterFeed (s : State) (d : Byte) (r : SyncResult) : SameHostSide s (s.afterFeed d r) := by
  cases r <;> exact ⟨rfl, rfl, rfl, rfl, rfl⟩

theorem sameBank_afterFeed (s : State) (d : Byte) {r : SyncResult} (h : (s.afterFeed d r).lastEvt ≠ .accept) :
    SameBank s (s.afterFeed d r) := by
  cases r with
  | accept p => exact absurd rfl h
  | cont | desync | checksumError | dropped => exact .of_eq rfl rfl rfl rfl rfl rfl

theorem afterFeed_syncHist {r : SyncResult} (s : State) (d : Byte) (h : r ≠ .cont) :
    (s.afterFeed d r).syncHist = s.syncHist := by
  cases r with
  | cont => exact absurd rfl h
  | accept | desync | checksumError | dropped => rfl

theorem get?_syncHist_afterFeed (s : State) (d : Byte) (r : SyncResult) {a : Nat} (h : a ≠ s.syncPos.toNat) :
    (s.afterFeed d r).syncHist.get? a = s.syncHist.get? a := by
  by_cases hr : r = .cont
  · subst hr
    exact Memory.get?_write_other _ d h
  · rw [afterFeed_syncHist s d hr]

/-! What a command can change. -/

/-- No command touches the parameters or the host's own side. -/
theorem sameHostSide_after (i : Instr) (s : State) : SameHostSide s (after i s) := by
  cases i with
  | feed d => exact sameHostSide_afterFeed s d _
  | fload d =>
    rcases after_fload_eq_or s d with h | h <;> rw [h] <;> exact ⟨rfl, rfl, rfl, rfl, rfl⟩
  | nop | srst | fclr | fdec => exact ⟨rfl, rfl, rfl, rfl, rfl⟩

/-- Only `FEED` and `SRST` touch the synchronizer. -/
theorem sameSync_after {i : Instr} (s : State) (hfeed : ∀ d, i ≠ .feed d) (hsrst : i ≠ .srst) :
    SameSync s (after i s) := by
  cases i with
  | feed d => exact absurd rfl (hfeed d)
  | srst => exact absurd rfl hsrst
  | fload d =>
    rcases after_fload_eq_or s d with h | h <;> rw [h] <;> exact .of_eq rfl rfl
  | nop | fclr | fdec => exact .of_eq rfl rfl

/-- Only `FLOAD` and `FCLR` touch the frame buffer. -/
theorem sameFrameBuffer_after {i : Instr} (s : State) (hfload : ∀ d, i ≠ .fload d) (hfclr : i ≠ .fclr) :
    SameFrameBuffer s (after i s) := by
  cases i with
  | fload d => exact absurd rfl (hfload d)
  | fclr => exact absurd rfl hfclr
  | feed d => exact .of_eq (s.afterFeed_frmLen d _) (s.afterFeed_frmOvf d _) (s.afterFeed_frmBuf d _)
  | nop | srst | fdec => exact .of_eq rfl rfl rfl

/-- Only `FDEC` and an accepting `FEED` write the result bank (20_memory.md R58). -/
theorem sameBank_after {i : Instr} (s : State) (hfdec : ∀ v, i ≠ .fdec v)
    (hfeed : ∀ d, i = .feed d → (after i s).lastEvt ≠ .accept) : SameBank s (after i s) := by
  cases i with
  | fdec v => exact absurd rfl (hfdec v)
  | feed d => exact sameBank_afterFeed s d (hfeed d rfl)
  | fload d =>
    rcases after_fload_eq_or s d with h | h <;> rw [h] <;> exact .of_eq rfl rfl rfl rfl rfl rfl
  | nop | srst | fclr => exact .of_eq rfl rfl rfl rfl rfl rfl

/-! The frame of each command. -/

theorem buf_after_of_mem {i : Instr} (hi : i ∈ [Instr.nop, .srst, .fclr]) (s : State) (n : BufName) :
    (after i s).buf n = s.buf n := by
  simp only [List.mem_cons, List.not_mem_nil, or_false] at hi
  rcases hi with rfl | rfl | rfl
  · exact s.buf_report .done n
  · exact (State.buf_report _ .done n).trans (s.buf_restartSync n)
  · exact (State.buf_report _ .done n).trans (s.buf_clearFrame n)

/-- Settles O20: none of the three is a command that can change the bank, and `NOP`, `SRST` and `FCLR` store in no
buffer (`buf_after_of_mem`). -/
theorem nopSrstFclrFrame : Obligations.NopSrstFclrFrame := by
  intro i s t hi h
  obtain rfl := eq_after_of_exec h
  have hfeed : ∀ d, i ≠ .feed d := by rintro d rfl; simp at hi
  have hfload : ∀ d, i ≠ .fload d := by rintro d rfl; simp at hi
  have hfdec : ∀ v, i ≠ .fdec v := by rintro v rfl; simp at hi
  exact ⟨fun n a => by rw [buf_after_of_mem hi], sameBank_after s hfdec fun d hd => absurd hd (hfeed d),
    sameHostSide_after i s, sameSync_after s hfeed, sameFrameBuffer_after s hfload⟩

/-- Settles O21: below the capacity `FLOAD` is one store at `FRM_LEN` (`after_fload_of_lt`), and at it only the flag
is set (`after_fload_of_not_lt`). -/
theorem floadFrame : Obligations.FloadFrame := by
  intro d s t h
  obtain rfl := eq_after_of_exec h
  refine ⟨sameSync_after s nofun nofun, sameBank_after s nofun nofun, sameHostSide_after _ s,
    fun hlt => ?_, fun hge => ?_⟩
  · rw [after_fload_of_lt d hlt]
    exact ⟨rfl, fun a ha => Memory.get?_write_other _ d ha⟩
  · rw [after_fload_of_not_lt d (Nat.not_lt.2 hge)]
    exact ⟨rfl, fun _ => rfl⟩

/-- Settles O22: `FDEC` is neither a command of the synchronizer nor one that loads or clears the frame. -/
theorem fdecFrame : Obligations.FdecFrame := by
  intro v s t h
  obtain rfl := eq_after_of_exec h
  exact ⟨sameSync_after s nofun nofun, sameFrameBuffer_after s nofun nofun, sameHostSide_after _ s⟩

/-- Settles O23: of the outcomes of a `FEED` only `ACCEPT` writes the bank (`sameBank_afterFeed`), and only
`CONTINUE` stores in the history, at `SYNC_POS` (`get?_syncHist_afterFeed`). -/
theorem feedFrame : Obligations.FeedFrame := by
  intro d s t h
  obtain rfl := eq_after_of_exec h
  refine ⟨sameFrameBuffer_after s nofun nofun, sameHostSide_after _ s, sameBank_afterFeed s d,
    fun a => get?_syncHist_afterFeed s d _, fun hevt a => ?_⟩
  have hr : feedByte s.cfg s.syncPos.toNat d s.history ≠ .cont := by
    rwa [ne_eq, ← eventOf_eq_cont_iff, ← afterFeed_lastEvt s d]
  exact congrArg (·.get? a) (afterFeed_syncHist s d hr)

/-- Settles O24: a step that is no reset is one command (`sameBank_after`) with the port side around it
(`sameBank_withPortSide`), or the port side alone. -/
theorem onlyWriteResultOrResetChangesTheBank : Obligations.OnlyWriteResultOrResetChangesTheBank := by
  intro s t h
  obtain ⟨-, ⟨-, rfl⟩ | ⟨w, rest, i, u, hi, hd, hu, rfl⟩ | ⟨w, rest, r, -, -, rfl⟩ | ⟨rest, hi, rfl⟩ |
    ⟨rest, idx, -, rfl⟩ | ⟨rest, idx, -, rfl⟩⟩ := step_cases h
  · exact .inl (sameBank_withPortSide s _ _ _ _ _)
  · by_cases hfdec : ∃ v, i = .fdec v
    · obtain ⟨v, rfl⟩ := hfdec
      exact .inr (.inr (.inl ⟨w, rest, v, hi, hd⟩))
    by_cases hacc : ∃ d, i = .feed d ∧ u.lastEvt = .accept
    · obtain ⟨d, rfl, hevt⟩ := hacc
      exact .inr (.inr (.inr ⟨w, rest, d, hi, hd, hevt⟩))
    · obtain rfl := eq_after_of_exec hu
      have taken : SameBank s (s.withInputs rest) := sameBank_withPortSide s _ _ rest _ _
      have executed : SameBank (s.withInputs rest) (after i (s.withInputs rest)) :=
        sameBank_after _ (not_exists.1 hfdec) fun d hd hevt => hacc ⟨d, hd, hevt⟩
      exact .inl ((taken.trans executed).trans (sameBank_withPortSide _ _ true _ _ _))
  · exact .inl (sameBank_withPortSide s .illegal true rest _ _)
  · exact .inr (.inl ⟨rest, hi⟩)
  · exact .inl (sameBank_withPortSide s _ _ rest _ _)
  · exact .inl (sameBank_withPortSide s _ _ rest _ _)

end Sys2Proof.Machine
end

section
/-!
PROOFS. Holding a state: the block that waits (20_memory.md R56), and the commands that change nothing when they are
issued again (10_state.md R55).
-/

namespace Sys2Proof.Machine

/-- Settles O8: with an empty list the step is `State.idle`, which lowers `evt_valid` and no more. -/
theorem idleBlockHoldsItsState : Obligations.IdleBlockHoldsItsState := fun _ hc hi => step_idle hc hi

/-- `FDEC` does not touch the frame it decodes, so a second one has the same result. -/
theorem after_fdec_idem (v : Bool) (s : State) : after (.fdec v) (after (.fdec v) s) = after (.fdec v) s := by
  have hres : fdecResult v (after (.fdec v) s) = fdecResult v s := by
    have hframe : (after (.fdec v) s).frame = s.frame := State.frame_congr rfl rfl
    unfold fdecResult
    rw [hframe]
    rfl
  change ((after (.fdec v) s).writeResult (fdecResult v (after (.fdec v) s))).report .done = _
  rw [hres]
  rfl

theorem after_idem {i : Instr} (hfeed : ∀ d, i ≠ .feed d) (hfload : ∀ d, i ≠ .fload d) (s : State) :
    after i (after i s) = after i s := by
  cases i with
  | feed d => exact absurd rfl (hfeed d)
  | fload d => exact absurd rfl (hfload d)
  | fdec v => exact after_fdec_idem v s
  | nop | srst | fclr => rfl

/-- After reset the first byte of the preamble is stored, and the same byte again is a desync. -/
theorem feed_again_changes :
    after (.feed 0x49) State.reset ≠ after (.feed 0x49) (after (.feed 0x49) State.reset) := by decide

/-- After reset each `FLOAD` makes the frame one byte longer. -/
theorem fload_again_changes :
    after (.fload 0) State.reset ≠ after (.fload 0) (after (.fload 0) State.reset) := by decide

/-- Settles O19: each command's second issue starts from what its first one left (`after_idem`), and for `FEED` and
`FLOAD` two issues from reset differ from one. -/
theorem repeatingACommandChangesNothing : Obligations.RepeatingACommandChangesNothing := by
  refine ⟨fun i s hfeed hfload => ⟨after i s, exec_after i s, ?_⟩, fun s t h => ?_, ?_, ?_⟩
  · rw [exec_after, after_idem hfeed hfload s]
  · obtain rfl : s.report .illegal = t := Host.Outcome.next.inj h
    rfl
  · exact ⟨_, _, _, 0x49, exec_after _ _, exec_after _ _, feed_again_changes⟩
  · exact ⟨_, _, _, 0, exec_after _ _, exec_after _ _, fload_again_changes⟩

end Sys2Proof.Machine
end

section
/-!
PROOFS. Command words: decoding and encoding agree on every word and operand (30_encoding.md R82, R83, R84), by the two
bytes of the word.
-/

namespace Sys2Proof.Machine

theorem Decoded.eq_command_iff (d : Decoded) (i : Instr) : d = .command i ↔ d.instr? = some i := by
  cases d <;> simp [Decoded.instr?]

/-- R83: the word of a command is decoded to that command, every operand bit kept. -/
theorem decode_encode (i : Instr) : decode (encode i) = .command i := by
  rw [Decoded.eq_command_iff, Laws.encode_bytes]
  cases i with
  | fdec v => cases v <;> rfl
  | nop | feed | srst | fload | fclr => exact (Laws.decode_instr_bytes _ _).trans (by simp)

/-- R84: a word that is decoded to a command is the word of that command. -/
theorem eq_encode_of_decode {w : Word} {i : Instr} (h : decode w = .command i) : w = encode i := by
  obtain ⟨hi, lo, rfl⟩ := Laws.exists_bytes_of_word w
  rw [Decoded.eq_command_iff, Laws.decode_instr_bytes] at h
  rw [Laws.encode_bytes]
  split_ifs at h with hfeed hfload hlo hnop hsrst hfclr hfdec0 hfdec1 <;> cases h <;> subst_vars <;> rfl

/-- Settles O1: `decode_encode` one way, `eq_encode_of_decode` the other. -/
theorem decodeReadsExactlyTheEncodedWord : Obligations.DecodeReadsExactlyTheEncodedWord := fun _ i =>
  ⟨eq_encode_of_decode, fun h => h ▸ decode_encode i⟩

/-- Settles O3: the seven words are those `encode` gives, and the other two fall through all six rows. -/
theorem sampleCommandWordsDecode : Obligations.SampleCommandWordsDecode :=
  ⟨decode_encode .nop, decode_encode (.feed 0x49), decode_encode .srst, decode_encode (.fload 0x02),
    decode_encode .fclr, decode_encode (.fdec false), decode_encode (.fdec true), by decide, by decide⟩

end Sys2Proof.Machine
end

section
/-!
PROOFS. The rows of the opcode map: which words match one, and what a word that matches none is executed as
(30_encoding.md R81, R84).
-/

namespace Sys2Proof.Machine

/-- The row that fixes the opcode `op` and asks 0 of every bit that is reserved for it. -/
def opcodeRow (op : BitVec 4) : Row := ⟨op ++ (0 : BitVec 12), 0xF000 ||| reservedMask op⟩

/-- R81 and R82 describe one map: its rows are those of the six opcodes in use. -/
theorem mem_opcodeMap_iff (r : Row) : r ∈ opcodeMap ↔ ∃ op : BitVec 4, op.toNat < 6 ∧ r = opcodeRow op := by
  have hrows : ∀ r ∈ opcodeMap, ∃ op : BitVec 4, op.toNat < 6 ∧ r = opcodeRow op := by decide
  have hops : ∀ op : BitVec 4, op.toNat < 6 → opcodeRow op ∈ opcodeMap := by decide
  exact ⟨hrows r, fun ⟨op, hop, hr⟩ => hr ▸ hops op hop⟩

/-- No opcode bit is a reserved bit. -/
theorem exists_reservedMask_eq_append (op : BitVec 4) : ∃ m : BitVec 12, reservedMask op = (0 : BitVec 4) ++ m :=
  ⟨(reservedMask op).extractLsb' 0 12, by revert op; decide⟩

theorem opField_append (op : BitVec 4) (x : BitVec 12) : opField (op ++ x : Word) = op :=
  BitVec.extractLsb'_append_eq_left

/-- Every word is its opcode and 12 bits behind it. -/
theorem exists_opcode_append (w : Word) : ∃ (op : BitVec 4) (x : BitVec 12), w = op ++ x :=
  ⟨_, _, (BitVec.extractLsb'_append_extractLsb' (w := 4) (len := 12) (x := w)).symm⟩

theorem opcode_append_inj (a b : BitVec 4) (x y : BitVec 12) :
    (a ++ x : Word) = b ++ y ↔ a = b ∧ x = y := by
  constructor
  · intro h
    obtain rfl : a = b := by rw [← opField_append a x, h, opField_append]
    exact ⟨rfl, (BitVec.append_right_inj a).1 h⟩
  · rintro ⟨rfl, rfl⟩
    rfl

theorem opcodeRow_spells_iff (op : BitVec 4) (w : Word) :
    (opcodeRow op).spells w = true ↔ opField w = op ∧ w &&& reservedMask op = 0 := by
  obtain ⟨o, x, rfl⟩ := exists_opcode_append w
  obtain ⟨m, hm⟩ := exists_reservedMask_eq_append op
  have hmask : (0xF000 : Word) ||| ((0 : BitVec 4) ++ m) = BitVec.allOnes 4 ++ m := by
    rw [show (0xF000 : Word) = BitVec.allOnes 4 ++ (0 : BitVec 12) from rfl, BitVec.or_append]
    simp
  have hzero : (0 : Word) = (0 : BitVec 4) ++ (0 : BitVec 12) := rfl
  rw [Row.spells, opcodeRow, hm, hmask, hzero, BitVec.and_append, BitVec.and_append, beq_iff_eq,
    opcode_append_inj, opcode_append_inj, opField_append, BitVec.and_allOnes]
  simp

/-- The one row a word can match is that of its opcode. -/
theorem eq_opcodeRow_of_spells {w : Word} {r : Row} (hr : r ∈ opcodeMap) (h : r.spells w = true) :
    r = opcodeRow (opField w) := by
  obtain ⟨op, -, rfl⟩ := (mem_opcodeMap_iff r).1 hr
  obtain ⟨rfl, -⟩ := (opcodeRow_spells_iff op w).1 h
  rfl

theorem forall_spells_false_iff (w : Word) : (∀ r ∈ opcodeMap, r.spells w = false) ↔ ReservedWord w := by
  constructor
  · intro h
    by_cases hop : 6 ≤ (opField w).toNat
    · exact .inl hop
    · have hrow := h _ ((mem_opcodeMap_iff _).2 ⟨opField w, by omega, rfl⟩)
      refine .inr fun hbits => ?_
      rw [(opcodeRow_spells_iff _ w).2 ⟨rfl, hbits⟩] at hrow
      exact absurd hrow (by decide)
  · intro h r hr
    obtain ⟨op, hop, rfl⟩ := (mem_opcodeMap_iff r).1 hr
    rw [Bool.eq_false_iff, ne_eq, opcodeRow_spells_iff]
    rintro ⟨rfl, hbits⟩
    rcases h with h | h
    · omega
    · exact h hbits

theorem rowOf_mem_opcodeMap (i : Instr) : rowOf i ∈ opcodeMap := by
  cases i <;> simp [rowOf, opcodeMap]

theorem rowOf_spells_encode (i : Instr) : (rowOf i).spells (encode i) = true := by
  cases i with
  | nop => exact Laws.MatchesRow.nop
  | feed d => exact Laws.MatchesRow.feed d
  | srst => exact Laws.MatchesRow.srst
  | fload d => exact Laws.MatchesRow.fload d
  | fclr => exact Laws.MatchesRow.fclr
  | fdec v => exact Laws.MatchesRow.fdec v

/-- The decoder tries the rows one after the other, and rejects a word when none is left. -/
theorem exists_decode_illegal_iff (w : Word) :
    (∃ e, decode w = .illegal e) ↔ ∀ r ∈ opcodeMap, r.spells w = false := by
  simp only [decode, opcodeMap, List.forall_mem_cons]
  split_ifs <;> simp_all

theorem step_illegal {s : State} {w : Word} {rest : List PortInput} {e : Reject} (hc : s.cfg.wf = true)
    (hi : s.inputs = .command w :: rest) (hd : decode w = .illegal e) :
    step s = finish (execIllegal (s.withInputs rest)) := by simp [step, hc, hi, hd]

/-- Settles O2: every row is that of an opcode (`mem_opcodeMap_iff`), so a word can match only the row of its own
(`eq_opcodeRow_of_spells`); and the decoder tries each row (`exists_decode_illegal_iff`). -/
theorem wordSpellsTheRowItMatches : Obligations.WordSpellsTheRowItMatches := by
  refine ⟨fun w r hr r' hr' h h' => ?_, fun w i hd => ⟨rowOf_mem_opcodeMap i, ?_⟩, fun w ⟨r, hr, h⟩ => ?_,
    forall_spells_false_iff, fun s w rest hc hi hnone => ?_⟩
  · rw [eq_opcodeRow_of_spells hr h, eq_opcodeRow_of_spells hr' h']
  · rw [eq_encode_of_decode hd]
    exact beq_iff_eq.1 (rowOf_spells_encode i)
  · cases hd : decode w with
    | command i => exact ⟨i, rfl⟩
    | illegal e => simp [(exists_decode_illegal_iff w).1 ⟨e, hd⟩ r hr] at h
  · obtain ⟨e, hd⟩ := (exists_decode_illegal_iff w).2 hnone
    exact step_illegal hc hi hd

end Sys2Proof.Machine
end

section
/-!
PROOFS. The assembler: operand ranges, and the commands each pseudo-instruction expands to (30_encoding.md R86, R87).
-/

namespace Sys2Proof.Machine

/-- Settles O4: each operand has one range check, `asmByte`, `asmFlag` or that of `.word`. -/
theorem assemblerChecksOperandRange : Obligations.AssemblerChecksOperandRange := by
  intro c n
  refine ⟨?_, ?_, ?_, rfl⟩
  · simp only [assemble, asmByte]
    split <;> rfl
  · simp only [assemble, asmByte]
    split <;> rfl
  · simp only [assemble, asmFlag]
    split_ifs <;> rfl

/-! Operands in range are read back as they were written. -/

@[simp] theorem asmByte_toNat (b : Byte) : asmByte b.toNat = some b := by
  have hlt : b.toNat < 256 := b.isLt
  rw [asmByte, if_pos (by omega), BitVec.ofNat_toNat, BitVec.setWidth_eq]

@[simp] theorem asmBytes_map_toNat (bs : List Byte) : asmBytes (bs.map BitVec.toNat) = some bs := by
  induction bs with
  | nil => rfl
  | cons b bs ih => simp only [List.map_cons, asmBytes, asmByte_toNat, ih]

theorem asmBytes1_map_toNat {bs : List Byte} (h : bs ≠ []) : asmBytes1 (bs.map BitVec.toNat) = some bs := by
  rw [asmBytes1, if_neg (by simpa using h), asmBytes_map_toNat]

@[simp] theorem asmFlag_toNat (v : Bool) : asmFlag v.toNat = some v := by cases v <;> rfl

theorem asmChars_of_ascii {cs : List Char} (h : ∀ ch ∈ cs, ch.toNat < 128) :
    asmChars cs = some (cs.map fun ch => BitVec.ofNat 8 ch.toNat) := by
  induction cs with
  | nil => rfl
  | cons ch cs ih =>
    obtain ⟨hch, hcs⟩ := List.forall_mem_cons.1 h
    simp only [asmChars, ih hcs, if_pos hch, List.map_cons]

/-! The words of a pseudo-instruction are the words of its commands. -/

/-- The words `ws` are decoded to the commands `is`, one each. -/
theorem map_decode_map_encode (is : List Instr) : (is.map encode).map decode = is.map .command := by
  rw [List.map_map]
  exact List.map_congr_left fun i _ => decode_encode i

theorem feedWords_eq (bs : List Byte) : feedWords bs = (feeds bs).map encode := by
  rw [feeds, List.map_map]
  rfl

theorem floadWords_eq (bs : List Byte) : floadWords bs = (floads bs).map encode := by
  rw [floads, List.map_map]
  rfl

theorem frameWords_eq (bs : List Byte) (v : Bool) :
    frameWords bs v = (Instr.fclr :: floads bs ++ [Instr.fdec v]).map encode := by
  simp [frameWords, floadWords_eq]

/-- Settles O5: the operands are those given (`asmBytes_map_toNat` and its like), and what `encode` made of a command
list is decoded to that list (`map_decode_map_encode`). -/
theorem pseudoInstructionsExpandToCommands : Obligations.PseudoInstructionsExpandToCommands := by
  intro c t ps
  refine ⟨fun hlen => ⟨(feeds (streamFrame c t ps)).map encode, ?_, map_decode_map_encode _⟩,
    fun hps => ⟨(feeds ps).map encode, ?_, map_decode_map_encode _⟩,
    fun cs hcs => ⟨(feeds _).map encode, ?_, map_decode_map_encode _⟩,
    fun hps => ⟨(floads ps).map encode, ?_, map_decode_map_encode _⟩,
    fun hps v => ⟨(Instr.fclr :: floads ps ++ [Instr.fdec v]).map encode, ?_, map_decode_map_encode _⟩,
    fun hps => ⟨(Instr.fclr :: floads (ps ++ [cs8 ps]) ++ [Instr.fdec true]).map encode, ?_,
      map_decode_map_encode _⟩⟩
  · simp only [assemble, asmByte_toNat, asmBytes_map_toNat, if_pos hlen, feedWords_eq]
  · simp only [assemble, asmBytes1_map_toNat hps, Option.map_some, feedWords_eq]
  · simp only [assemble, asmChars_of_ascii hcs, Option.map_some, feedWords_eq]
  · simp only [assemble, asmBytes1_map_toNat hps, Option.map_some, floadWords_eq]
  · simp only [assemble, asmFlag_toNat, asmBytes1_map_toNat hps, frameWords_eq]
  · simp only [assemble, asmBytes1_map_toNat hps, Option.map_some, frameWords_eq]

end Sys2Proof.Machine
end

section
/-!
PROOFS. Multi-segment frames: the checks of `decode_frame` let through exactly the frames of R72 (41_frame_codec.md
R123, R124), and the segment decoder undoes the packing of R75 and R76.
-/

namespace Sys2Proof.Machine

/-! The segment decoder and the packing. -/

/-- A first segment is its length byte, its bytes, and what the decoder makes of the rest
(42_segment_decoder.md R150). -/
theorem segmentDecode_eq_cons_iff {f : List Byte} {c b : Nat} {seg : List Byte} {segs : List (List Byte)} :
    segmentDecode f c b = some (seg :: segs) ↔
      ∃ n : Byte, c + 1 + n.toNat ≤ b ∧ f[c]? = some n ∧ slice f (c + 1) (c + 1 + n.toNat) = seg ∧
        segmentDecode f (c + 1 + n.toNat) b = some segs := by
  rcases Nat.lt_or_ge c b with hc | hc
  · rw [segmentDecode_of_lt f hc]
    cases hn : f[c]? with
    | none => simp
    | some n =>
      simp only [Option.some_inj]
      by_cases hle : c + 1 + n.toNat ≤ b
      · simp [Nat.not_lt.2 hle, hle, and_comm]
      · simp [Nat.lt_of_not_le hle, hle]
  · rw [segmentDecode_of_ge f hc]
    constructor
    · simp
    · rintro ⟨n, hle, -⟩
      omega

theorem segmentDecode_eq_nil_iff {f : List Byte} {c b : Nat} : segmentDecode f c b = some [] ↔ b ≤ c := by
  constructor
  · intro h
    obtain ⟨hge, -⟩ | ⟨-, n, rest, -, hseg, -⟩ := segmentDecode_cases h
    · exact hge
    · simp at hseg
  · exact segmentDecode_of_ge f

/-- A slice that starts with a length byte and has the bytes it announces, cut behind them. -/
theorem slice_eq_segment_append {f : List Byte} {c b : Nat} {n : Byte} (hn : f[c]? = some n)
    (hle : c + 1 + n.toNat ≤ b) :
    slice f c b = n :: slice f (c + 1) (c + 1 + n.toNat) ++ slice f (c + 1 + n.toNat) b := by
  rw [slice_cons hn (by omega), slice_split f (Nat.le_add_right (c + 1) n.toNat) hle]
  rfl

theorem lenByte_eq_of_length {bs : List Byte} {n : Byte} (h : bs.length = n.toNat) : lenByte bs = n := by
  simp [lenByte, h]

theorem getElem?_of_slice_eq_cons {f : List Byte} {c b : Nat} {n : Byte} {g : List Byte}
    (h : slice f c b = n :: g) : f[c]? = some n := by
  have h0 : (slice f c b)[0]? = some n := by rw [h]; rfl
  rw [slice, List.getElem?_take] at h0
  split at h0
  · simpa using h0
  · simp at h0

/-- R75, R76: within the sequence, what decodes to segments is exactly what packs them. -/
theorem segmentDecode_eq_some_iff {f : List Byte} {b : Nat} (hb : b ≤ f.length) {segs : List (List Byte)}
    {c : Nat} : segmentDecode f c b = some segs ↔
      slice f c b = packSegments segs ∧ ∀ seg ∈ segs, seg.length ≤ 255 := by
  induction segs generalizing c with
  | nil =>
    have hnil : slice f c b = [] ↔ b ≤ c := by
      rw [← List.length_eq_zero_iff, length_slice f c b hb]
      omega
    simp [segmentDecode_eq_nil_iff, packSegments, hnil]
  | cons seg segs ih =>
    rw [segmentDecode_eq_cons_iff, List.forall_mem_cons, packSegments]
    constructor
    · rintro ⟨n, hle, hn, hseg, hrest⟩
      obtain ⟨hslice, hsegs⟩ := ih.1 hrest
      have hlen : seg.length = n.toNat := by rw [← hseg, length_slice _ _ _ (by omega)]; omega
      have hlt : n.toNat < 256 := n.isLt
      refine ⟨?_, by omega, hsegs⟩
      rw [slice_eq_segment_append hn hle, hseg, hslice, lenByte_eq_of_length hlen]
    · rintro ⟨hslice, hseg, hsegs⟩
      have hlen : (lenByte seg).toNat = seg.length := toNat_lenByte hseg
      have htotal := congrArg List.length hslice
      rw [length_slice f c b hb] at htotal
      simp only [List.length_append, List.length_cons] at htotal
      have hn : f[c]? = some (lenByte seg) := getElem?_of_slice_eq_cons hslice
      have hle : c + 1 + (lenByte seg).toNat ≤ b := by omega
      have hfirst : (slice f (c + 1) (c + 1 + (lenByte seg).toNat)).length = seg.length := by
        rw [length_slice f _ _ (hle.trans hb)]
        omega
      rw [slice_eq_segment_append hn hle] at hslice
      obtain ⟨hhead, hrest⟩ := List.append_inj hslice (congrArg (· + 1) hfirst)
      exact ⟨lenByte seg, hle, hn, (List.cons.inj hhead).2, ih.2 ⟨hrest, hsegs⟩⟩

theorem length_le_of_mem_packSegments {segs : List (List Byte)} (h : (packSegments segs).length ≤ 255) :
    ∀ seg ∈ segs, seg.length ≤ 255 := by
  intro seg hseg
  have hle : seg.length ≤ segs.flatten.length := (List.sublist_flatten_of_mem hseg).length_le
  rw [length_packSegments_eq_add] at h
  omega

/-! The length and checksum checks. -/

/-- The checksum check of a sequence with a last byte (41_frame_codec.md R124). -/
theorem checksumOk_append_singleton (g : List Byte) (x : Byte) : checksumOk (g ++ [x]) = true ↔ x = cs8 g := by
  simp [checksumOk, slice]

/-- The length check of a sequence of 2 bytes or more, without subtraction (R123). -/
theorem lengthOk_cons_cons_iff (t l : Byte) (rest : List Byte) (v : Bool) :
    lengthOk (t :: l :: rest) l v = true ↔ rest.length = l.toNat + checksumOffset v := by
  simp only [lengthOk, decide_eq_true_eq, List.length_cons]
  omega

/-- R72, R79: what passes the length check and, when asked for, the checksum check is a frame, its length byte and
checksum those of its payload. -/
theorem checks_iff_commandFrame (t l : Byte) (rest : List Byte) (v : Bool) :
    (lengthOk (t :: l :: rest) l v = true ∧ (v && !checksumOk (t :: l :: rest)) = false) ↔
      ∃ payload, payload.length ≤ 255 ∧ t :: l :: rest = commandFrame t payload v := by
  have hlt : l.toNat < 256 := l.isLt
  rw [lengthOk_cons_cons_iff]
  cases v with
  | false =>
    simp only [checksumOffset, commandFrame, Bool.false_and, and_true, if_false, Bool.false_eq_true,
      Nat.add_zero, List.cons.injEq, true_and]
    constructor
    · intro h
      exact ⟨rest, by omega, (lenByte_eq_of_length h).symm, rfl⟩
    · rintro ⟨payload, hle, rfl, rfl⟩
      exact (toNat_lenByte hle).symm
  | true =>
    simp only [checksumOffset, commandFrame, Bool.true_and, if_true, Bool.not_eq_false']
    constructor
    · rintro ⟨hlen, hsum⟩
      obtain rfl | ⟨payload, x, rfl⟩ := List.eq_nil_or_concat' rest
      · simp at hlen
      have hl : payload.length = l.toNat := by simpa using hlen
      rw [← lenByte_eq_of_length hl] at hsum ⊢
      rw [← List.cons_append, ← List.cons_append, checksumOk_append_singleton] at hsum
      exact ⟨payload, by omega, by rw [hsum]; rfl⟩
    · rintro ⟨payload, hle, h⟩
      have hlen := congrArg List.length h
      rw [h, checksumOk_append_singleton]
      simp only [List.cons_append, List.cons.injEq] at h
      obtain ⟨-, rfl, rfl⟩ := h
      simp [toNat_lenByte hle]

/-- With both checks passed the payload is decoded (R120). -/
theorem decodeFrame_commandFrame (c : Config) (t : Byte) {payload : List Byte} (v : Bool)
    (h : payload.length ≤ 255) :
    decodeFrame c (commandFrame t payload v) v = decodePayload c (commandFrame t payload v) t v := by
  obtain ⟨l, rest, hf⟩ : ∃ l rest, commandFrame t payload v = t :: l :: rest := by
    cases v <;> exact ⟨_, _, rfl⟩
  obtain ⟨hlen, hsum⟩ := (checks_iff_commandFrame t l rest v).2 ⟨payload, h, hf.symm⟩
  simp [hf, decodeFrame, hlen, hsum]

theorem tag_of_decodePayload_ok {c : Config} {f : List Byte} {t t' : Byte} {v : Bool} {segs : List (List Byte)}
    (h : decodePayload c f t v = ⟨.ok, t', segs⟩) : t = t' := by
  unfold decodePayload at h
  split at h
  · split at h
    · simp [malformed] at h
    · exact congrArg ParsedCommand.command h
  · exact congrArg ParsedCommand.command h

/-- An input of 2 bytes or more that gives `OK` is a frame of R72. -/
theorem exists_commandFrame_of_ok {c : Config} {f : List Byte} {v : Bool} {t : Byte} {segs : List (List Byte)}
    (hf : 2 ≤ f.length) (h : decodeFrame c f v = ⟨.ok, t, segs⟩) :
    ∃ payload, payload.length ≤ 255 ∧ f = commandFrame t payload v := by
  match f, hf with
  | t' :: l :: rest, _ =>
    cases hlen : lengthOk (t' :: l :: rest) l v with
    | false => simp [decodeFrame, hlen, malformed] at h
    | true =>
      cases hsum : v && !checksumOk (t' :: l :: rest) with
      | true => simp [decodeFrame, hlen, hsum, badChecksum] at h
      | false =>
        have hpayload : decodePayload c (t' :: l :: rest) t' v = ⟨.ok, t, segs⟩ := by
          rw [← h]
          simp [decodeFrame, hlen, hsum]
        obtain rfl := tag_of_decodePayload_ok hpayload
        exact (checks_iff_commandFrame t' l rest v).1 ⟨hlen, hsum⟩

theorem slice_commandFrame (t : Byte) (payload : List Byte) (v : Bool) :
    slice (commandFrame t payload v) 2 ((commandFrame t payload v).length - checksumOffset v) = payload := by
  cases v <;> simp [commandFrame, slice, checksumOffset]

/-- R125: the segments of a multi-segment frame are those its payload packs. -/
theorem decodePayload_eq_ok_iff {c : Config} {t : Byte} (ht : isMulti c t = true) {payload : List Byte}
    (hle : payload.length ≤ 255) (v : Bool) (segs : List (List Byte)) :
    decodePayload c (commandFrame t payload v) t v = ⟨.ok, t, segs⟩ ↔ payload = packSegments segs := by
  have hdec := segmentDecode_eq_some_iff (segs := segs) (c := 2)
    (Nat.sub_le (commandFrame t payload v).length (checksumOffset v))
  rw [slice_commandFrame, and_iff_left_of_imp fun hp => length_le_of_mem_packSegments (hp ▸ hle)] at hdec
  rw [decodePayload, if_pos ht, ← hdec]
  cases segmentDecode (commandFrame t payload v) 2 ((commandFrame t payload v).length - checksumOffset v) with
  | none => simp [malformed]
  | some segs' => simp

/-- Settles O39: an input that gives `OK` is a frame (`exists_commandFrame_of_ok`), and for a frame only its payload
is left to decode (`decodePayload_eq_ok_iff`). -/
theorem multiSegmentFramesAreExactlyThePackedOnes :
    Obligations.MultiSegmentFramesAreExactlyThePackedOnes := by
  intro c t segs f v ht hf
  constructor
  · intro h
    obtain ⟨payload, hle, rfl⟩ := exists_commandFrame_of_ok hf h
    rw [decodeFrame_commandFrame c t v hle, decodePayload_eq_ok_iff ht hle] at h
    exact h ▸ ⟨rfl, hle⟩
  · rintro ⟨rfl, hle⟩
    rw [decodeFrame_commandFrame c t v hle, decodePayload_eq_ok_iff ht hle]

end Sys2Proof.Machine
end

section
/-!
PROOFS. Runs of commands: the state a run leads to, and a relation that each command keeps along a run.
-/

namespace Sys2Proof.Machine

/-- The next state of a run of commands, as a function. -/
def afterAll (is : List Instr) (s : State) : State := is.foldl (fun t i => after i t) s

@[simp] theorem afterAll_nil (s : State) : afterAll [] s = s := rfl

@[simp] theorem afterAll_cons (i : Instr) (is : List Instr) (s : State) :
    afterAll (i :: is) s = afterAll is (after i s) := rfl

@[simp] theorem afterAll_append (is js : List Instr) (s : State) :
    afterAll (is ++ js) s = afterAll js (afterAll is s) := List.foldl_append

theorem execAll_eq_next_afterAll (is : List Instr) (s : State) : execAll is s = .next (afterAll is s) := by
  induction is generalizing s with
  | nil => rfl
  | cons i is ih => rw [execAll_cons, ih, afterAll_cons]

/-- A frame property of each command of a run is one of the run. -/
theorem rel_afterAll {R : State → State → Prop} (refl : ∀ s, R s s)
    (trans : ∀ {s t u}, R s t → R t u → R s u) {is : List Instr} (h : ∀ i ∈ is, ∀ s, R s (after i s)) (s : State) : R s (afterAll is s) := by
  induction is generalizing s with
  | nil => exact refl s
  | cons i is ih =>
    obtain ⟨hi, his⟩ := List.forall_mem_cons.1 h
    exact trans (hi s) (ih his (after i s))

@[simp] theorem afterAll_cfg (is : List Instr) (s : State) : (afterAll is s).cfg = s.cfg :=
  rel_afterAll (R := fun s t => t.cfg = s.cfg) (fun _ => rfl) (fun h h' => h'.trans h)
    (fun i _ s => after_cfg i s) s

theorem SameSync.trans {s t u : State} (h : SameSync s t) (h' : SameSync t u) : SameSync s u :=
  ⟨h'.pos.trans h.pos, fun i => (h'.hist i).trans (h.hist i)⟩

theorem SameFrameBuffer.trans {s t u : State} (h : SameFrameBuffer s t) (h' : SameFrameBuffer t u) :
    SameFrameBuffer s u :=
  ⟨h'.len.trans h.len, h'.ovf.trans h.ovf, fun i => (h'.buf i).trans (h.buf i)⟩

/-- A run without `FEED` and `SRST` leaves the synchronizer alone. -/
theorem sameSync_afterAll {is : List Instr} (h : ∀ i ∈ is, (∀ d, i ≠ .feed d) ∧ i ≠ .srst) (s : State) :
    SameSync s (afterAll is s) :=
  rel_afterAll (R := SameSync) (fun _ => .of_eq rfl rfl) SameSync.trans
    (fun i hi s => let ⟨hfeed, hsrst⟩ := h i hi; sameSync_after s hfeed hsrst) s

theorem sameFrameBuffer_afterAll_feeds (bs : List Byte) (s : State) :
    SameFrameBuffer s (afterAll (feeds bs) s) := by
  refine rel_afterAll (R := SameFrameBuffer) (fun _ => .of_eq rfl rfl rfl) SameFrameBuffer.trans
    (fun i hi s => ?_) s
  obtain ⟨d, -, rfl⟩ := List.mem_map.1 hi
  exact sameFrameBuffer_after s nofun nofun

end Sys2Proof.Machine
end

section
/-!
PROOFS. The frame buffer as a log of the bytes loaded since it was cleared (41_frame_codec.md R129, R130, R131,
30_encoding.md R87).
-/

namespace Sys2Proof.Machine

/-- The frame buffer of `s` after `FCLR` and one `FLOAD` for each byte of `g`: the bytes there was room for, and
whether there were more. -/
structure Loaded (s : State) (g : List Byte) : Prop where
  frame : s.frame = g.take nFrm
  ovf : s.frmOvf = true ↔ nFrm < g.length

theorem Loaded.frmLen_eq {s : State} {g : List Byte} (h : Loaded s g) : s.frmLen.toNat = min g.length nFrm := by
  rw [← State.length_frame, h.frame, List.length_take, Nat.min_comm]

theorem loaded_nil_after_fclr (s : State) : Loaded (after .fclr s) [] := ⟨rfl, by simp [after]⟩

theorem Loaded.after_fload {s : State} {g : List Byte} (h : Loaded s g) (d : Byte) :
    Loaded (after (.fload d) s) (g ++ [d]) := by
  have hlen := h.frmLen_eq
  by_cases hlt : s.frmLen.toNat < nFrm
  · have hg : g.length < nFrm := by omega
    have hpush : (s.pushFrame d).frame = g ++ [d] := by
      rw [s.frame_pushFrame d (by simp only [nFrm] at hlt; omega), h.frame, List.take_of_length_le hg.le]
    rw [after_fload_of_lt d hlt]
    constructor
    · rw [List.take_of_length_le (by simpa using hg)]
      exact hpush
    · rw [State.report_frmOvf, State.pushFrame_frmOvf, h.ovf, List.length_append, List.length_singleton]
      omega
  · have hg : nFrm ≤ g.length := by omega
    rw [after_fload_of_not_lt d hlt]
    constructor
    · rw [List.take_append_of_le_length hg]
      exact h.frame
    · simpa using Nat.lt_succ_of_le hg

theorem Loaded.afterAll_floads {s : State} {g : List Byte} (h : Loaded s g) (bs : List Byte) :
    Loaded (afterAll (floads bs) s) (g ++ bs) := by
  induction bs generalizing s g with
  | nil => simpa [floads] using h
  | cons b bs ih => simpa [floads] using ih (h.after_fload b)

/-- No declared length fits an input that the buffer cannot hold (41_frame_codec.md R123). -/
theorem decodeFrame_of_overlong (c : Config) {g : List Byte} (h : nFrm < g.length) (v : Bool) :
    decodeFrame c g v = malformed c := by
  match g, h with
  | t :: l :: rest, h =>
    have hl : l.toNat < 256 := l.isLt
    have hlen : lengthOk (t :: l :: rest) l v = false := by
      rw [Bool.eq_false_iff, ne_eq, lengthOk_cons_cons_iff]
      have : checksumOffset v ≤ 1 := by cases v <;> simp [checksumOffset]
      simp only [nFrm, List.length_cons] at h
      omega
    simp [decodeFrame, hlen]

/-- What `FDEC` answers after an overflow is what `decode_frame` of all the bytes would have (R131). -/
theorem Loaded.fdecResult_eq {s : State} {g : List Byte} (h : Loaded s g) (v : Bool) :
    fdecResult v s = decodeFrame s.cfg g v := by
  by_cases hg : nFrm < g.length
  · rw [fdecResult, if_pos (h.ovf.2 hg), decodeFrame_of_overlong s.cfg hg]
  · rw [fdecResult, if_neg (mt h.ovf.1 hg), h.frame, List.take_of_length_le (by omega)]

theorem Loaded.res_after_fdec {s : State} {g : List Byte} (h : Loaded s g) (v : Bool) :
    (after (.fdec v) s).res = valueOf (decodeFrame s.cfg g v) := by
  rw [← h.fdecResult_eq]
  exact writeResult_res (bankable_fdecResult v s) s

theorem loadRun_sameSync (s : State) (g : List Byte) (v : Bool) :
    SameSync s (afterAll (.fclr :: floads g ++ [.fdec v]) s) := by
  refine sameSync_afterAll (fun i hi => ?_) s
  obtain rfl | ⟨d, -, rfl⟩ | rfl : i = .fclr ∨ (∃ d, d ∈ g ∧ Instr.fload d = i) ∨ i = .fdec v := by
    simpa [floads] using hi
  · exact ⟨nofun, nofun⟩
  · exact ⟨nofun, nofun⟩
  · exact ⟨nofun, nofun⟩

/-- Settles O40: after the loads the buffer holds the bytes there was room for (`Loaded.afterAll_floads`), and an input
too long for the buffer is `MALFORMED` either way (`Loaded.fdecResult_eq`). -/
theorem loadedFrameIsDecodedWhateverItsLength : Obligations.LoadedFrameIsDecodedWhateverItsLength := by
  intro s g v
  have hload : Loaded (afterAll (.fclr :: floads g) s) g := (loaded_nil_after_fclr s).afterAll_floads g
  have hres := hload.res_after_fdec v
  rw [afterAll_cfg] at hres
  refine ⟨_, execAll_eq_next_afterAll _ s, ?_, ?_, ?_, ?_, loadRun_sameSync s g v⟩ <;> rw [afterAll_append]
  · exact hres
  · rfl
  · exact hload.frmLen_eq
  · exact hload.ovf

end Sys2Proof.Machine
end

section
/-!
PROOFS. A whole stream frame fed from position 0 (30_encoding.md R70, R71, R79, 43_stream_sync.md R171 to R177).
-/

namespace Sys2Proof.Machine

/-! The bytes of a stream frame before its checksum. -/

theorem length_streamBody (c : Config) (type : Byte) (payload : List Byte) :
    (streamBody c type payload).length = 9 + payload.length := by
  rw [streamBody, List.length_append]
  rfl

theorem streamBody_getElem?_magic (c : Config) (type : Byte) (payload : List Byte) {k : Nat} (h : k ≤ 5) :
    (streamBody c type payload)[k]? = magic[k]? := by
  rw [streamBody, List.append_assoc, List.getElem?_append_left (Nat.lt_succ_of_le h)]

theorem streamBody_version (c : Config) (type : Byte) (payload : List Byte) :
    (streamBody c type payload)[6]? = some c.version := rfl

theorem streamBody_type (c : Config) (type : Byte) (payload : List Byte) :
    (streamBody c type payload)[7]? = some type := rfl

theorem streamBody_len (c : Config) (type : Byte) (payload : List Byte) :
    (streamBody c type payload)[8]? = some (lenByte payload) := rfl

theorem slice_streamBody_payload (c : Config) (type : Byte) (payload : List Byte) :
    slice (streamBody c type payload) 9 (9 + payload.length) = payload := by
  simp [streamBody, slice, magic]

theorem slice_streamBody_all (c : Config) (type : Byte) (payload : List Byte) :
    slice (streamBody c type payload) 0 (9 + payload.length) = streamBody c type payload := by
  rw [← length_streamBody c type payload, slice, List.drop_zero, Nat.sub_zero, List.take_length]

/-! What `feed_byte` makes of each byte. -/

section
variable (c : Config) (type : Byte) {payload : List Byte} (hlen : payload.length ≤ 255)
include hlen

/-- Every byte before the checksum is stored (43_stream_sync.md R171 to R174). -/
theorem feedByte_streamBody_eq_cont {k : Nat} {d : Byte} (hd : (streamBody c type payload)[k]? = some d) :
    feedByte c k d ((streamBody c type payload).take k) = .cont := by
  refine (feedByte_eq_cont_iff _ _ _ _).2 ⟨fun h5 => ?_, fun h6 => ?_, fun h9 => ⟨lenByte payload, ?_, ?_⟩⟩
  · rw [← hd, streamBody_getElem?_magic c type payload h5]
  · rw [h6, streamBody_version] at hd
    exact (Option.some_inj.1 hd).symm
  · rw [List.getElem?_take_of_lt (by omega), streamBody_len]
  · obtain ⟨hk, -⟩ := List.getElem?_eq_some_iff.1 hd
    rw [length_streamBody] at hk
    rw [toNat_lenByte hlen]
    omega

/-- The byte behind the payload is the checksum's (R175, R176, R177). -/
theorem feedByte_streamBody_end (b : Byte) :
    feedByte c (9 + payload.length) b (streamBody c type payload) =
      if cs8 (streamBody c type payload) != b then .checksumError
      else if type = c.typeRpc then .accept (decodeFrame c payload false)
      else .dropped := by
  have h5 : ¬ 9 + payload.length ≤ 5 := by omega
  have h6 : ¬ 9 + payload.length = 6 := by omega
  have h8 : ¬ 9 + payload.length ≤ 8 := by omega
  have hend : ¬ 9 + payload.length ≤ 8 + payload.length := by omega
  simp only [feedByte, h5, h6, h8, if_false, streamBody_len, toNat_lenByte hlen, hend, if_true, feedChecksum,
    slice_streamBody_all, streamBody_type, Option.some_inj, slice_streamBody_payload]

end

/-! The run of `FEED`s. -/

/-- `FEED` in terms of the history alone. -/
theorem after_feed_eq (d : Byte) (s : State) :
    after (.feed d) s = s.afterFeed d (feedByte s.cfg s.history.length d s.history) := by
  rw [State.length_history]
  rfl

theorem history_afterFeed_cont {s : State} {d : Byte}
    (h : feedByte s.cfg s.history.length d s.history = .cont) :
    (s.afterFeed d .cont).history = s.history ++ [d] := by
  have hlt : s.history.length < nHist := pos_of_cont h
  rw [State.length_history, nHist] at hlt
  exact s.history_pushHist d (by omega)

theorem afterAll_feeds_append_singleton (bs : List Byte) (d : Byte) (s : State) :
    afterAll (feeds (bs ++ [d])) s = after (.feed d) (afterAll (feeds bs) s) := by
  simp [feeds]

section
variable {s : State} (type : Byte) {payload : List Byte} (hs : s.syncPos = 0) (hlen : payload.length ≤ 255)
include hs hlen

/-- While the frame goes on, the history is what has been fed of it. -/
theorem feedRun_history {k : Nat} (hk : k ≤ (streamBody s.cfg type payload).length) :
    (afterAll (feeds ((streamBody s.cfg type payload).take k)) s).history =
      (streamBody s.cfg type payload).take k ∧
    SameBank s (afterAll (feeds ((streamBody s.cfg type payload).take k)) s) := by
  induction k with
  | zero => exact ⟨State.history_of_pos_zero hs, .of_eq rfl rfl rfl rfl rfl rfl⟩
  | succ k ih =>
    obtain ⟨hhist, hbank⟩ := ih (by omega)
    rw [List.take_succ_eq_append_getElem hk, afterAll_feeds_append_singleton]
    generalize hu : afterAll (feeds ((streamBody s.cfg type payload).take k)) s = u at hhist hbank ⊢
    have hcont : feedByte u.cfg u.history.length (streamBody s.cfg type payload)[k] u.history = .cont := by
      rw [hhist, List.length_take_of_le (by omega), ← hu, afterAll_cfg]
      exact feedByte_streamBody_eq_cont s.cfg type hlen (List.getElem?_eq_getElem hk)
    rw [after_feed_eq, hcont, history_afterFeed_cont hcont, hhist]
    exact ⟨rfl, hbank.trans (sameBank_afterFeed u _ nofun)⟩

/-- The byte behind the body finds the whole of it in the history. -/
theorem feedRun_last (b : Byte) :
    afterAll (feeds (streamBody s.cfg type payload ++ [b])) s =
      (afterAll (feeds (streamBody s.cfg type payload)) s).afterFeed b
        (if cs8 (streamBody s.cfg type payload) != b then .checksumError
          else if type = s.cfg.typeRpc then .accept (decodeFrame s.cfg payload false)
          else .dropped) := by
  obtain ⟨hhist, -⟩ := feedRun_history type hs hlen (Nat.le_refl _)
  rw [List.take_length] at hhist
  rw [afterAll_feeds_append_singleton, after_feed_eq, hhist, afterAll_cfg, length_streamBody,
    feedByte_streamBody_end s.cfg type hlen]

theorem feedRun_streamFrame :
    afterAll (feeds (streamFrame s.cfg type payload)) s =
      (afterAll (feeds (streamBody s.cfg type payload)) s).afterFeed (cs8 (streamBody s.cfg type payload))
        (if type = s.cfg.typeRpc then .accept (decodeFrame s.cfg payload false) else .dropped) := by
  rw [streamFrame, feedRun_last type hs hlen, bne_self_eq_false, if_neg Bool.false_ne_true]

theorem feedRun_badChecksum {b : Byte} (hb : b ≠ cs8 (streamBody s.cfg type payload)) :
    afterAll (feeds (streamBody s.cfg type payload ++ [b])) s =
      (afterAll (feeds (streamBody s.cfg type payload)) s).afterFeed b .checksumError := by
  rw [feedRun_last type hs hlen, if_pos (bne_iff_ne.2 hb.symm)]

theorem feedRun_sameBank : SameBank s (afterAll (feeds (streamBody s.cfg type payload)) s) := by
  obtain ⟨-, hbank⟩ := feedRun_history type hs hlen (Nat.le_refl _)
  rwa [List.take_length] at hbank

end

theorem res_afterFeed_accept (s : State) (d : Byte) {c : Config} {p : ParsedCommand} (hp : Bankable c p) :
    (s.afterFeed d (.accept p)).res = valueOf p := writeResult_res hp s

/-- Settles O49: the body is stored byte for byte (`feedRun_history`), so the checksum position sees all of it
(`feedRun_last`), and its outcome is what the run ends with. -/
theorem wholeStreamFrameIsDelivered : Obligations.WholeStreamFrameIsDelivered := by
  intro s type payload hs hlen
  have hbank := feedRun_sameBank type hs hlen
  have hframe := feedRun_streamFrame type hs hlen
  constructor
  · refine ⟨_, execAll_eq_next_afterAll _ s, ?_, sameFrameBuffer_afterAll_feeds _ s, fun htype => ?_,
      fun htype => ?_⟩
      <;> rw [hframe]
    · exact afterFeed_syncPos _ _ (by split <;> nofun)
    · rw [if_pos htype]
      exact ⟨rfl, res_afterFeed_accept _ _ (bankable_decodeFrame s.cfg payload false)⟩
    · rw [if_neg htype]
      exact ⟨rfl, hbank.trans (sameBank_afterFeed _ _ nofun)⟩
  · intro b hb
    refine ⟨_, execAll_eq_next_afterAll _ s, ?_, ?_, ?_, sameFrameBuffer_afterAll_feeds _ s⟩
      <;> rw [feedRun_badChecksum type hs hlen hb]
    · rfl
    · rfl
    · exact hbank.trans (sameBank_afterFeed _ _ nofun)

end Sys2Proof.Machine
end

section
/-!
PROOFS. The execution step: a word is executed as the command it spells or as `ILLEGAL`, and every command completes
with one of its own events (40_common.md R100, R102, R104, R105, 60_exceptions.md R200, R206).
-/

namespace Sys2Proof.Machine

theorem step_command {s : State} {w : Word} {rest : List PortInput} {i : Instr} (hc : s.cfg.wf = true)
    (hi : s.inputs = .command w :: rest) (hd : decode w = .command i) :
    step s = finish (exec i (s.withInputs rest)) := by simp [step, hc, hi, hd]

/-- The events of a `FEED` (43_stream_sync.md R180): never `DONE`, `ILLEGAL` or `NONE`. -/
theorem eventOf_mem (r : SyncResult) :
    eventOf r ∈ [Event.cont, .accept, .desync, .checksumError, .dropped] := by
  cases r <;> simp [eventOf]

theorem after_fload_lastEvt (d : Byte) (s : State) : (after (.fload d) s).lastEvt = .done := by
  obtain h | h := after_fload_eq_or s d <;> rw [h, State.report_lastEvt]

/-- Settles O6: a decoded word is handed to `exec` (`step_command`), which always completes (`exec_after`); a rejected
one is handed to `execIllegal` (`step_illegal`). -/
theorem stepExecutesTheOfferedCommand : Obligations.StepExecutesTheOfferedCommand := by
  intro s w rest hc hi
  refine ⟨fun i hd => ⟨after i (s.withInputs rest), exec_after i _, ?_⟩, fun r hd => ?_⟩
  · rw [step_command hc hi hd, exec_after]
    rfl
  · rw [step_illegal hc hi hd]
    rfl

/-- Settles O7: the decoder rejects the words that match no row (`exists_decode_illegal_iff`), which are the reserved
ones (`forall_spells_false_iff`). -/
theorem illegalWordOnlyReports : Obligations.IllegalWordOnlyReports :=
  ⟨fun w => (forall_spells_false_iff w).symm.trans (exists_decode_illegal_iff w).symm, fun _ => rfl⟩

/-- Settles O10: `FEED` reports the event of its outcome (`afterFeed_lastEvt`, `eventOf_mem`); every other command
ends in a report of `DONE`. -/
theorem everyCommandCompletesAndReports : Obligations.EveryCommandCompletesAndReports := by
  intro i s
  refine ⟨after i s, exec_after i s, ?_⟩
  cases i with
  | feed d =>
    change (s.afterFeed d _).lastEvt ∈ _
    rw [afterFeed_lastEvt]
    exact eventOf_mem _
  | fload d => exact after_fload_lastEvt d s
  | nop | srst | fclr | fdec => rfl

/-- Settles O13: the match bits of the `NOP` row are 0, and its one effect is the report. -/
theorem nopOnlyReportsDone : Obligations.NopOnlyReportsDone := ⟨rfl, fun s => exec_after .nop s⟩

end Sys2Proof.Machine
end

section
/-!
PROOFS. The checksum accumulator (40_common.md R103).
-/

namespace Sys2Proof.Machine

theorem cs8_cons (b : Byte) (f : List Byte) : cs8 (b :: f) = b + cs8 f := by
  rw [← List.singleton_append, cs8_append, cs8_singleton]

/-- Whatever it starts from, the accumulator adds `cs8` of the bytes to it. -/
theorem cs8Acc_eq_add_cs8 (acc : Byte) (f : List Byte) : cs8Acc acc f = acc + cs8 f := by
  induction f generalizing acc with
  | nil => exact (BitVec.add_zero acc).symm
  | cons b f ih =>
    calc cs8Acc acc (b :: f) = cs8Acc (acc + b) f := rfl
      _ = acc + b + cs8 f := ih (acc + b)
      _ = acc + cs8 (b :: f) := by rw [cs8_cons, BitVec.add_assoc]

/-- Settles O28: the accumulator started at 0 (`cs8Acc_eq_add_cs8`). -/
theorem checksumAccumulatorAgrees : Obligations.ChecksumAccumulatorAgrees := fun f =>
  (cs8Acc_eq_add_cs8 0 f).trans (BitVec.zero_add _)

end Sys2Proof.Machine
end

section
/-!
PROOFS. The tables `write_result` leaves, entry for entry, for any result that fits them, whether or not
`decode_frame` can give it (40_common.md R101; log 8, log 10).
-/

namespace Sys2Proof.Machine

theorem toNat_byte_of_lt {n : Nat} (h : n < 256) : (BitVec.ofNat 8 n).toNat = n :=
  (BitVec.toNat_ofNat n 8).trans (Nat.mod_eq_of_lt h)

theorem getElem?_flatten_of_getElem? {segs : List (List Byte)} {i j : Nat} {seg : List Byte} {b : Byte}
    (hseg : segs[i]? = some seg) (hb : seg[j]? = some b) :
    segs.flatten[(segs.take i).flatten.length + j]? = some b := by
  obtain ⟨hi, rfl⟩ := List.getElem?_eq_some_iff.1 hseg
  obtain ⟨hj, -⟩ := List.getElem?_eq_some_iff.1 hb
  rw [flatten_eq_take_getElem_drop segs i hi, List.getElem?_append_right (Nat.le_add_right _ _),
    Nat.add_sub_cancel_left, List.getElem?_append_left hj, hb]

section
variable (s : State) {p : ParsedCommand} {i : Nat}

theorem get?_resSegOff_writeResult (h : i < p.data.length) :
    (s.writeResult p).resSegOff.get? i = some (BitVec.ofNat 8 (p.data.take i).flatten.length) := by
  rw [State.writeResult_resSegOff, Memory.get?_ofBytes, getElem?_segOffsets p.data 0 i h, Nat.zero_add]

theorem get?_resSegLen_writeResult {seg : List Byte} (h : p.data[i]? = some seg) :
    (s.writeResult p).resSegLen.get? i = some (BitVec.ofNat 8 seg.length) := by
  rw [State.writeResult_resSegLen, Memory.get?_ofBytes, List.getElem?_map, h, Option.map_some]

theorem get?_resSegOff_writeResult_of_le (h : p.data.length ≤ i) :
    (s.writeResult p).resSegOff.get? i = none := by
  rw [State.writeResult_resSegOff, Memory.get?_ofBytes, List.getElem?_eq_none (by rwa [length_segOffsets])]

theorem get?_resSegLen_writeResult_of_le (h : p.data.length ≤ i) :
    (s.writeResult p).resSegLen.get? i = none := by
  rw [State.writeResult_resSegLen, Memory.get?_ofBytes, List.getElem?_eq_none (by rwa [List.length_map])]

theorem get?_resData_writeResult (p : ParsedCommand) (k : Nat) :
    (s.writeResult p).resData.get? k = p.data.flatten[k]? := by
  rw [State.writeResult_resData, Memory.get?_ofBytes]

end

/-- In a result of at most 254 bytes no segment's offset or length needs more than a byte. -/
theorem segment_offset_length_lt {segs : List (List Byte)} (h : segs.flatten.length ≤ 254) {i : Nat} {seg : List Byte}
    (hseg : segs[i]? = some seg) : (segs.take i).flatten.length < 256 ∧ seg.length < 256 := by
  obtain ⟨hi, rfl⟩ := List.getElem?_eq_some_iff.1 hseg
  have hle := length_flatten_take_le segs (i + 1)
  rw [length_flatten_take_succ segs i hi] at hle
  omega

/-- Settles O26: each table is read entry by entry, and within the bounds no count, offset or length wraps
(`segment_offset_length_lt`); `decode_frame` stays within them (`bankable_decodeFrame`). -/
theorem writeResultLaysOutTheSegments : Obligations.WriteResultLaysOutTheSegments := by
  refine ⟨fun s p hsegs hbytes => ⟨rfl, ?_, rfl, ?_, fun i seg hseg => ?_, fun i hi =>
      ⟨get?_resSegOff_writeResult_of_le s hi, get?_resSegLen_writeResult_of_le s hi⟩, fun k hk => ?_⟩,
    fun c f v => ⟨(bankable_decodeFrame c f v).segs_le, (bankable_decodeFrame c f v).bytes_le⟩⟩
  · rw [State.writeResult_resStatus]
    cases p.status <;> rfl
  · exact toNat_byte_of_lt (by omega)
  · obtain ⟨hi, -⟩ := List.getElem?_eq_some_iff.1 hseg
    obtain ⟨hoff, hlen⟩ := segment_offset_length_lt hbytes hseg
    have hoff' := toNat_byte_of_lt hoff
    refine ⟨_, _, get?_resSegOff_writeResult s hi, get?_resSegLen_writeResult s hseg, ?_,
      toNat_byte_of_lt hlen, fun j b hb => ?_⟩
    · rw [hoff', List.length_flatten]
    · rw [hoff', get?_resData_writeResult]
      exact getElem?_flatten_of_getElem? hseg hb
  · rw [get?_resData_writeResult]
    exact List.getElem?_eq_none hk

end Sys2Proof.Machine
end

section
/-!
PROOFS. Single-value frames (40_common.md R106, 41_frame_codec.md R126).
-/

namespace Sys2Proof.Machine

theorem isMulti_iff (c : Config) (t : Byte) :
    isMulti c t = true ↔ t = c.cmdWifiSettings ∨ t = c.cmdCustom := by
  simp [isMulti]

/-- A frame whose tag is not multi-segment passes both checks, and its payload is not looked at (R126). -/
theorem decodeFrame_commandFrame_of_single {c : Config} {t : Byte} (ht : isMulti c t = false)
    {payload : List Byte} (h : payload.length ≤ 255) (v : Bool) :
    decodeFrame c (commandFrame t payload v) v = ⟨.ok, t, []⟩ := by
  simp [decodeFrame_commandFrame c t v h, decodePayload, ht]

/-- With a well-formed configuration (00_scope.md R6) neither sentinel is a multi-segment command. -/
theorem sentinels_single {c : Config} (hc : c.wf = true) :
    isMulti c c.cmdUnknown = false ∧ isMulti c c.cmdBadChecksum = false := by
  have hnodup := c.wf_iff_nodup.1 hc
  simp only [List.nodup_cons, List.mem_cons, not_or] at hnodup
  obtain ⟨⟨-, huw, huc, -⟩, ⟨hbw, hbc, -⟩, -⟩ := hnodup
  simp [isMulti, huw, huc, hbw, hbc]

/-- Settles O34: every tag that is not multi-segment is given back (`decodeFrame_commandFrame_of_single`), and the
sentinels are two such tags (`sentinels_single`). -/
theorem singleValueFrameGivesItsTag : Obligations.SingleValueFrameGivesItsTag := by
  refine ⟨isMulti_iff, fun c t payload v hlen =>
    ⟨fun ht => decodeFrame_commandFrame_of_single ht hlen v, fun hc => ?_⟩⟩
  obtain ⟨hunknown, hbad⟩ := sentinels_single hc
  exact ⟨decodeFrame_commandFrame_of_single hunknown hlen v, decodeFrame_commandFrame_of_single hbad hlen v⟩

end Sys2Proof.Machine
end

section
/-!
PROOFS. `decode_frame` check by check (60_exceptions.md R207): what an input that fails one gives, and why a frame that
passed them all fails one when a byte of it is changed (41_frame_codec.md R122 to R124, R128).
-/

namespace Sys2Proof.Machine

/-! One equation for each check. -/

theorem decodeFrame_of_length_lt_two (c : Config) {f : List Byte} (v : Bool) (h : f.length < 2) :
    decodeFrame c f v = decodeShort c f v := by
  match f, h with
  | [], _ => rfl
  | [_], _ => rfl

theorem decodeFrame_of_lengthOk_false (c : Config) {f : List Byte} {l : Byte} {v : Bool} (hl : f[1]? = some l)
    (h : lengthOk f l v = false) : decodeFrame c f v = malformed c := by
  match f, hl with
  | t :: l' :: rest, hl =>
    obtain rfl : l' = l := by simpa using hl
    simp [decodeFrame, h]

theorem decodeFrame_of_checksumOk_false (c : Config) {f : List Byte} {l : Byte} (hl : f[1]? = some l)
    (h : lengthOk f l true = true) (hsum : checksumOk f = false) : decodeFrame c f true = badChecksum c := by
  match f, hl with
  | t :: l' :: rest, hl =>
    obtain rfl : l' = l := by simpa using hl
    simp [decodeFrame, h, hsum]

/-- R122: only a one-byte input under `CmdOnly`, without verification, is a command. -/
theorem decodeShort_eq_malformed {c : Config} {f : List Byte} {v : Bool}
    (h : c.shortInner = .cmdOnly → ∀ t, ¬ (f = [t] ∧ v = false)) : decodeShort c f v = malformed c := by
  unfold decodeShort
  split
  next t hc => exact absurd ⟨rfl, rfl⟩ (h hc t)
  next => rfl

theorem decodeShort_singleton {c : Config} (hc : c.shortInner = .cmdOnly) (t : Byte) :
    decodeShort c [t] false = ⟨.ok, t, []⟩ := by simp [decodeShort, hc]

/-- Settles O31: a short input goes to `decodeShort`, which has the one exception of `decodeShort_singleton`. -/
theorem shortInputFollowsTheParameter : Obligations.ShortInputFollowsTheParameter := by
  intro c f v hf
  rw [decodeFrame_of_length_lt_two c v hf]
  refine ⟨fun hc => decodeShort_eq_malformed fun hc' => ?_, ?_, fun _ hne => decodeShort_eq_malformed fun _ => hne⟩
  · simp [hc] at hc'
  · rintro hc t rfl rfl
    exact decodeShort_singleton hc t

/-! The length check (R123). -/

theorem lengthOk_iff (f : List Byte) (l : Byte) (v : Bool) :
    lengthOk f l v = true ↔ (l.toNat : Int) = (f.length : Int) - 2 - (if v then 1 else 0) := by
  cases v <;> simp [lengthOk, checksumOffset]

/-- Of the sequence the length check sees only the number of bytes. -/
theorem lengthOk_set (f : List Byte) (j : Nat) (b l : Byte) (v : Bool) :
    lengthOk (f.set j b) l v = lengthOk f l v := by simp [lengthOk]

theorem eq_of_lengthOk {f : List Byte} {l l' : Byte} {v : Bool} (h : lengthOk f l v = true)
    (h' : lengthOk f l' v = true) : l = l' := by
  rw [lengthOk_iff] at h h'
  exact BitVec.eq_of_toNat_eq (by omega)

/-- Settles O32: the declared length is a byte, so it is neither -1 nor above 255. -/
theorem wrongDeclaredLengthIsMalformed : Obligations.WrongDeclaredLengthIsMalformed := by
  intro c f v l hl
  have hlt : l.toNat < 256 := l.isLt
  have fails (h : (l.toNat : Int) ≠ (f.length : Int) - 2 - (if v then 1 else 0)) :
      decodeFrame c f v = malformed c :=
    decodeFrame_of_lengthOk_false c hl (Bool.eq_false_iff.2 (mt (lengthOk_iff f l v).1 h))
  refine ⟨fails, fun hv hlen => fails ?_, fun hlen => fails ?_⟩
  · rw [hlen, if_pos hv]
    omega
  · by_cases hv : v = true
    · rw [if_pos hv] at hlen ⊢
      omega
    · rw [if_neg hv] at hlen ⊢
      omega

/-! The checksum check (R124): a changed byte changes the sum. -/

/-- `cs8` with the byte at one position set apart. -/
theorem cs8_set (g : List Byte) {j : Nat} (hj : j < g.length) (b : Byte) :
    cs8 (g.set j b) = b + (cs8 (g.take j) + cs8 (g.drop (j + 1))) := by
  rw [List.set_eq_take_append_cons_drop, if_pos hj, cs8_append, cs8_cons]
  ac_rfl

theorem cs8_set_eq_iff (g : List Byte) {j : Nat} (hj : j < g.length) (b : Byte) :
    cs8 (g.set j b) = cs8 g ↔ b = g[j] := by
  have hg : cs8 g = g[j] + (cs8 (g.take j) + cs8 (g.drop (j + 1))) := by
    rw [← cs8_set g hj, List.set_getElem_self]
  rw [cs8_set g hj, hg, BitVec.add_left_inj]

/-- Any one byte of a sequence that passes the checksum check decides it: a byte before the last enters the sum, and
the last one is compared with it. -/
theorem checksumOk_set_eq_false {f : List Byte} (h : checksumOk f = true) {j : Nat} {b : Byte} (hj : j < f.length)
    (hb : f[j]? ≠ some b) : checksumOk (f.set j b) = false := by
  obtain rfl | ⟨g, x, rfl⟩ := List.eq_nil_or_concat' f
  · simp at hj
  have hx : x = cs8 g := (checksumOk_append_singleton g x).1 h
  rw [Bool.eq_false_iff]
  intro hset
  rcases Nat.lt_or_ge j g.length with hlt | hge
  · rw [List.set_append_left _ _ hlt, checksumOk_append_singleton, hx, eq_comm, cs8_set_eq_iff g hlt] at hset
    exact hb (by rw [List.getElem?_append_left hlt, hset, List.getElem?_eq_getElem hlt])
  · rw [List.length_append, List.length_singleton] at hj
    obtain rfl : j = g.length := by omega
    rw [List.set_append_right _ _ hge, Nat.sub_self, List.set_cons_zero, checksumOk_append_singleton, ← hx] at hset
    exact hb (by simp [hset])

/-- What a frame that verifies has passed: both checks, since a short one is never `OK` under verification. -/
theorem checks_of_verified {c : Config} {f : List Byte} (h : (decodeFrame c f true).status = .ok) :
    ∃ l, f[1]? = some l ∧ lengthOk f l true = true ∧ checksumOk f = true := by
  match f with
  | [] | [_] =>
    rw [decodeFrame_of_length_lt_two c true (by simp), decodeShort_eq_malformed (by simp)] at h
    simp [malformed] at h
  | t :: l :: rest =>
    cases hlen : lengthOk (t :: l :: rest) l true with
    | false =>
      rw [decodeFrame_of_lengthOk_false c rfl hlen] at h
      simp [malformed] at h
    | true =>
      cases hsum : checksumOk (t :: l :: rest) with
      | false =>
        rw [decodeFrame_of_checksumOk_false c rfl hlen hsum] at h
        simp [badChecksum] at h
      | true => exact ⟨l, rfl, hlen, rfl⟩

/-- Settles O33: a changed length byte no longer fits the length; any other change keeps the length check and breaks
the checksum check (`checksumOk_set_eq_false`), which comes next (R207). -/
theorem changedByteOfACheckedFrameIsDetected : Obligations.ChangedByteOfACheckedFrameIsDetected := by
  intro c f j b h hj hb
  obtain ⟨l, hl, hlen, hsum⟩ := checks_of_verified h
  split
  next h1 =>
    subst h1
    have hne : lengthOk f b true ≠ true := fun hlen' => hb (eq_of_lengthOk hlen hlen' ▸ hl)
    exact decodeFrame_of_lengthOk_false c (List.getElem?_set_self hj)
      ((lengthOk_set f 1 b b true).trans (Bool.eq_false_iff.2 hne))
  next h1 =>
    exact decodeFrame_of_checksumOk_false c ((List.getElem?_set_ne h1).trans hl)
      ((lengthOk_set f j b l true).trans hlen) (checksumOk_set_eq_false hsum hj hb)

/-- Settles O35: every result of `decode_frame` can stand in the bank (`bankable_decodeFrame`), where neither a failing
status nor a single-value command has segments. -/
theorem failingResultsCarryNoData : Obligations.FailingResultsCarryNoData := fun c f v =>
  have hp : Bankable c (decodeFrame c f v) := bankable_decodeFrame c f v
  ⟨hp.failed, fun hdata => ⟨of_not_not (mt hp.failed hdata), (Bool.not_eq_false _).mp (mt hp.single hdata)⟩⟩

end Sys2Proof.Machine
end

section
/-!
PROOFS. The commands of the frame buffer, whole next states (41_frame_codec.md R129 to R131).
-/

namespace Sys2Proof.Machine

/-- R129: the length register counts the byte; it is written as the number it holds. -/
theorem State.pushFrame_eq (s : State) (d : Byte) :
    s.pushFrame d =
      { s with frmBuf := s.frmBuf.write s.frmLen.toNat d, frmLen := BitVec.ofNat 9 (s.frmLen.toNat + 1) } := by
  rw [BitVec.ofNat_add, BitVec.ofNat_toNat, BitVec.setWidth_eq]
  rfl

/-- Settles O15: `clearFrame` writes the two registers and no buffer. -/
theorem fclrEmptiesTheFrameBuffer : Obligations.FclrEmptiesTheFrameBuffer := ⟨rfl, fun s => exec_after .fclr s⟩

/-- Settles O16: the two outcomes of `FLOAD` (`after_fload_of_lt`, `after_fload_of_not_lt`). -/
theorem floadAppendsOrOverflows : Obligations.FloadAppendsOrOverflows := by
  refine ⟨fun _ => rfl, fun d s => ⟨fun hlt => ?_, fun hge => ?_⟩⟩
  · rw [exec_after, after_fload_of_lt d hlt, s.pushFrame_eq]
    rfl
  · rw [exec_after, after_fload_of_not_lt d (Nat.not_lt.2 hge)]
    rfl

/-- Settles O17: `fdecResult` is a result the bank can hold, so what is read back is that result
(`writeResult_res`); `write_result` touches the bank alone. -/
theorem fdecDecodesTheLoadedFrame : Obligations.FdecDecodesTheLoadedFrame :=
  ⟨rfl, rfl, fun v s =>
    ⟨_, exec_after (.fdec v) s, rfl, writeResult_res (bankable_fdecResult v s) s, rfl, rfl, rfl, rfl⟩⟩

end Sys2Proof.Machine
end

section
/-!
PROOFS. The segment decoder turn by turn (42_segment_decoder.md R150), and what it takes for it to succeed (R153) and to
fail (R155).
-/

namespace Sys2Proof.Machine

/-! One turn at a length byte. -/

theorem segmentDecode_of_getElem? {f : List Byte} {c b : Nat} {n : Byte} (hc : c < b) (hn : f[c]? = some n) :
    segmentDecode f c b =
      if c + 1 + n.toNat > b then none
      else (segmentDecode f (c + 1 + n.toNat) b).map (fun segs => slice f (c + 1) (c + 1 + n.toNat) :: segs) := by
  rw [segmentDecode_of_lt f hc, hn]

theorem segmentDecode_of_overrun {f : List Byte} {c b : Nat} {n : Byte} (hc : c < b) (hn : f[c]? = some n)
    (hover : b < c + 1 + n.toNat) : segmentDecode f c b = none := by
  rw [segmentDecode_of_getElem? hc hn, if_pos hover]

theorem segmentDecode_of_fits {f : List Byte} {c b : Nat} {n : Byte} (hn : f[c]? = some n)
    (hfit : c + 1 + n.toNat ≤ b) :
    segmentDecode f c b =
      (segmentDecode f (c + 1 + n.toNat) b).map (slice f (c + 1) (c + 1 + n.toNat) :: ·) := by
  rw [segmentDecode_of_getElem? (by omega) hn, if_neg (Nat.not_lt.2 hfit)]

/-- R155: a length byte 0 right before the boundary is a segment of no bytes. -/
theorem segmentDecode_empty_segment {f : List Byte} {c : Nat} (hn : f[c]? = some 0) :
    segmentDecode f c (c + 1) = some [[]] :=
  segmentDecode_eq_cons_iff.2 ⟨0, le_rfl, hn, slice_self f (c + 1), segmentDecode_eq_nil_iff.2 le_rfl⟩

/-- Settles O36: inside the sequence there is a length byte at the cursor (`segmentDecode_of_getElem?`). -/
theorem segmentDecoderTakesOneSegmentATurn : Obligations.SegmentDecoderTakesOneSegmentATurn := by
  intro f c b hb
  refine ⟨segmentDecode_of_ge f, fun hc => ?_⟩
  have hn : f[c]? = some f[c] := List.getElem?_eq_getElem (hc.trans_le hb)
  exact ⟨f[c], hn, segmentDecode_of_getElem? hc hn⟩

/-- Settles O37: the packed segments are as long as the payload, and each has a length byte besides its own bytes
(`length_packSegments_eq_add`). -/
theorem segmentsTileThePayload : Obligations.SegmentsTileThePayload := by
  intro f b segs h2 hb hle h
  have htotal : (packSegments segs).length = b - 2 := length_packSegments_of_segmentDecode hb h2 h
  have hadd := length_packSegments_eq_add segs
  refine ⟨length_packSegments segs ▸ htotal, by omega, fun hne => ?_, fun hnil => by simp [hnil]⟩
  have hpos : 0 < segs.length := List.length_pos_iff.2 hne
  omega

/-! Success up to a cursor, and what comes behind it. -/

/-- A decoding that reaches the cursor `m` goes on from there towards any later boundary. -/
theorem segmentDecode_continue {f : List Byte} {m b : Nat} (hmb : m ≤ b) {segs : List (List Byte)} {c : Nat}
    (hcm : c ≤ m) (h : segmentDecode f c m = some segs) :
    segmentDecode f c b = (segmentDecode f m b).map (segs ++ ·) := by
  induction segs generalizing c with
  | nil =>
    obtain rfl : c = m := Nat.le_antisymm hcm (segmentDecode_eq_nil_iff.1 h)
    simp
  | cons seg segs ih =>
    obtain ⟨n, hfit, hn, rfl, hrest⟩ := segmentDecode_eq_cons_iff.1 h
    rw [segmentDecode_of_fits hn (hfit.trans hmb), ih hfit hrest, Option.map_map]
    rfl

/-- Behind well-framed segments (R75, R76) the decoder goes on. -/
theorem segmentDecode_of_packSegments {f : List Byte} {c b : Nat} (hb : b ≤ f.length) {segs : List (List Byte)}
    (hsegs : ∀ seg ∈ segs, seg.length ≤ 255) (hmb : c + (packSegments segs).length ≤ b)
    (hslice : slice f c (c + (packSegments segs).length) = packSegments segs) :
    segmentDecode f c b = (segmentDecode f (c + (packSegments segs).length) b).map (segs ++ ·) :=
  segmentDecode_continue hmb (Nat.le_add_right c _) ((segmentDecode_eq_some_iff (hmb.trans hb)).2 ⟨hslice, hsegs⟩)

/-- R155: a decoding that fails reaches a cursor whose length byte overruns the boundary. -/
theorem exists_overrun_of_segmentDecode_eq_none {f : List Byte} {b : Nat} (hb : b ≤ f.length) (c : Nat)
    (h : segmentDecode f c b = none) :
    ∃ (m : Nat) (segs : List (List Byte)) (n : Byte), c ≤ m ∧ m < b ∧ segmentDecode f c m = some segs ∧
      f[m]? = some n ∧ b < m + 1 + n.toNat := by
  have hc : c < b := by
    by_contra hge
    simp [segmentDecode_of_ge f (Nat.not_lt.1 hge)] at h
  have hn : f[c]? = some f[c] := List.getElem?_eq_getElem (hc.trans_le hb)
  rcases Nat.lt_or_ge b (c + 1 + f[c].toNat) with hover | hfit
  · exact ⟨c, [], f[c], le_rfl, hc, segmentDecode_eq_nil_iff.2 le_rfl, hn, hover⟩
  · rw [segmentDecode_of_fits hn hfit, Option.map_eq_none_iff] at h
    obtain ⟨m, segs, n, hle, hm, hsegs, hnm, hover⟩ := exists_overrun_of_segmentDecode_eq_none hb _ h
    exact ⟨m, _ :: segs, n, by omega, hm, segmentDecode_eq_cons_iff.2 ⟨f[c], hle, hn, rfl, hsegs⟩, hnm, hover⟩
termination_by b - c

/-- Settles O38: behind well-framed segments the decoder meets the overrun or the empty segment
(`segmentDecode_of_packSegments`), and a decoding that fails has met an overrun
(`exists_overrun_of_segmentDecode_eq_none`). -/
theorem framingViolationsAreExactlyTheOverruns : Obligations.FramingViolationsAreExactlyTheOverruns := by
  intro f b h2 hb
  refine ⟨⟨fun h => ?_, ?_⟩, fun segs hsegs hend hslice hn => ?_⟩
  · obtain ⟨m, segs, n, hle, hm, hdec, hn, hover⟩ := exists_overrun_of_segmentDecode_eq_none hb 2 h
    have hmf : m ≤ f.length := hm.le.trans hb
    obtain ⟨hslice, hsegs⟩ := (segmentDecode_eq_some_iff hmf).1 hdec
    obtain rfl : m = 2 + (packSegments segs).length := by
      rw [length_packSegments_of_segmentDecode hmf hle hdec]
      omega
    exact ⟨segs, n, hsegs, hm, hslice, hn, hover⟩
  · rintro ⟨segs, n, hsegs, hlt, hslice, hn, hover⟩
    rw [segmentDecode_of_packSegments hb hsegs hlt.le hslice, segmentDecode_of_overrun hlt hn hover]
    rfl
  · subst hend
    rw [segmentDecode_of_packSegments hb hsegs (Nat.le_succ _) hslice, segmentDecode_empty_segment hn]
    rfl

end Sys2Proof.Machine
end

section
/-!
PROOFS. `feed_byte` position by position and the `FEED` of each (43_stream_sync.md R171 to R178, R180), what can start a
frame (R182), and `SRST` (R181).
-/

namespace Sys2Proof.Machine

/-! `feed_byte` at each kind of position (R170). -/

theorem feedByte_of_le_five (c : Config) {p : Nat} (b : Byte) (h : List Byte) (hp : p ≤ 5) :
    feedByte c p b h = if magic[p]? = some b then .cont else .desync := if_pos hp

theorem feedByte_of_eq_six (c : Config) {p : Nat} (b : Byte) (h : List Byte) (hp : p = 6) :
    feedByte c p b h = if b = c.version then .cont else .desync := by
  subst hp
  rfl

theorem feedByte_of_header (c : Config) {p : Nat} (b : Byte) (h : List Byte) (hp : p = 7 ∨ p = 8) :
    feedByte c p b h = .cont := by
  rcases hp with rfl | rfl <;> rfl

/-- Behind the header the length byte decides. -/
theorem feedByte_of_nine_le (c : Config) {p : Nat} (b : Byte) {h : List Byte} {n : Byte} (hn : h[8]? = some n)
    (hp : 9 ≤ p) :
    feedByte c p b h =
      if p ≤ 8 + n.toNat then .cont
      else if p = 9 + n.toNat then feedChecksum c b h n.toNat
      else .desync := by
  have h5 : ¬ p ≤ 5 := by omega
  have h6 : ¬ p = 6 := by omega
  have h8 : ¬ p ≤ 8 := by omega
  simp only [feedByte, h5, h6, h8, if_false, hn]

/-! The outcomes of a `FEED`, written as whole next states (R180). -/

theorem exec_feed_of_outcome {s : State} {d : Byte} {r : SyncResult}
    (hr : feedByte s.cfg s.syncPos.toNat d s.history = r) : exec (.feed d) s = .next (s.afterFeed d r) := by
  rw [← hr]
  exact exec_after (.feed d) s

/-- The position register counts the stored byte; it is written as the number it holds. -/
theorem afterFeed_cont_eq (s : State) (d : Byte) :
    s.afterFeed d .cont =
      { s with
        syncHist := s.syncHist.write s.syncPos.toNat d
        syncPos := BitVec.ofNat 9 (s.syncPos.toNat + 1)
        lastEvt := .cont } := by
  rw [BitVec.ofNat_add, BitVec.ofNat_toNat, BitVec.setWidth_eq]
  rfl

/-- Settles O18: each outcome is one update (`afterFeed_cont_eq`), and what `ACCEPT` carries is a result the bank can
hold (`result_of_accept`). -/
theorem feedActsOnTheOutcome : Obligations.FeedActsOnTheOutcome := by
  refine ⟨fun _ => rfl, fun d s => ⟨_, exec_feed_of_outcome rfl, ?_⟩⟩
  cases hr : feedByte s.cfg s.syncPos.toNat d s.history with
  | cont => exact afterFeed_cont_eq s d
  | accept p =>
    obtain ⟨n, -, -, -, rfl⟩ := result_of_accept hr
    exact ⟨rfl, res_afterFeed_accept s d (bankable_decodeFrame s.cfg _ false)⟩
  | desync => rfl
  | checksumError => rfl
  | dropped => rfl

/-- Settles O14: `restartSync` writes `SYNC_POS` alone. -/
theorem srstRestartsTheStream : Obligations.SrstRestartsTheStream := ⟨rfl, fun s => exec_after .srst s⟩

/-! The history as `feed_byte` reads it. -/

theorem State.history_getElem?_of_lt {s : State} {j : Nat} (h : j < s.syncPos.toNat) :
    s.history[j]? = some (s.readBuf .syncHist j) := by
  rw [State.getElem?_history, if_pos h]

theorem State.slice_history (s : State) (a : Nat) {k : Nat} (h : a + k ≤ s.syncPos.toNat) :
    slice s.history a (a + k) = s.readRange .syncHist a k := by
  apply List.ext_getElem?
  intro j
  rw [slice, Nat.add_sub_cancel_left, List.getElem?_take, List.getElem?_drop, State.getElem?_readRange]
  split
  · exact State.history_getElem?_of_lt (by omega)
  · rfl

/-- Behind the header of a block's frame the length byte is `SYNC_HIST[8]`. -/
theorem feedByte_history_of_nine_le {s : State} (c : Config) (d : Byte) (h9 : 9 ≤ s.syncPos.toNat) :
    feedByte c s.syncPos.toNat d s.history =
      if s.syncPos.toNat ≤ 8 + (s.readBuf .syncHist 8).toNat then .cont
      else if s.syncPos.toNat = 9 + (s.readBuf .syncHist 8).toNat then
        feedChecksum c d s.history (s.readBuf .syncHist 8).toNat
      else .desync :=
  feedByte_of_nine_le c d (State.history_getElem?_of_lt h9) h9

theorem feedByte_history_of_payload {s : State} (c : Config) (d : Byte) (h9 : 9 ≤ s.syncPos.toNat)
    (hle : s.syncPos.toNat ≤ 8 + (s.readBuf .syncHist 8).toNat) :
    feedByte c s.syncPos.toNat d s.history = .cont := by
  rw [feedByte_history_of_nine_le c d h9, if_pos hle]

/-- At the checksum position the whole history is summed, and the payload is what stands behind the header
(R175, R176, R177). -/
theorem feedByte_history_of_checksum {s : State} (c : Config) (d : Byte)
    (hp : s.syncPos.toNat = 9 + (s.readBuf .syncHist 8).toNat) :
    feedByte c s.syncPos.toNat d s.history =
      if cs8 s.history != d then .checksumError
      else if s.readBuf .syncHist 7 = c.typeRpc then
        .accept (decodeFrame c (slice s.history 9 s.syncPos.toNat) false)
      else .dropped := by
  have hall : slice s.history 0 s.syncPos.toNat = s.history := by
    rw [slice, List.drop_zero, Nat.sub_zero, ← State.length_history, List.take_length]
  rw [feedByte_history_of_nine_le c d (by omega), if_neg (by omega), if_pos hp, feedChecksum, ← hp, hall,
    State.history_getElem?_of_lt (by omega)]
  simp only [Option.some_inj]

theorem feedByte_history_of_beyond {s : State} (c : Config) (d : Byte)
    (hp : 9 + (s.readBuf .syncHist 8).toNat < s.syncPos.toNat) :
    feedByte c s.syncPos.toNat d s.history = .desync := by
  rw [feedByte_history_of_nine_le c d (by omega), if_neg (by omega), if_neg (by omega)]

/-! The obligations of the single positions. -/

/-- Settles O42: these are comparisons of `feed_byte` (`feedByte_of_le_five`, `feedByte_of_eq_six`), with `MAGIC`
written out. -/
theorem preambleAndVersionAreChecked : Obligations.PreambleAndVersionAreChecked := by
  refine fun d s => ⟨fun h5 => ?_, fun h6 => ?_⟩
  · rw [exec_feed_of_outcome (feedByte_of_le_five s.cfg d s.history h5)]
    change _ = Host.Outcome.next (if magic[s.syncPos.toNat]? = some d then _ else _)
    split
    · rw [afterFeed_cont_eq]
    · rfl
  · rw [exec_feed_of_outcome (feedByte_of_eq_six s.cfg d s.history h6)]
    split
    · rw [afterFeed_cont_eq, h6]
      rfl
    · rfl

/-- Settles O43: neither the header positions (`feedByte_of_header`) nor the payload positions
(`feedByte_history_of_payload`) look at the byte. -/
theorem headerAndPayloadAreBuffered : Obligations.HeaderAndPayloadAreBuffered := by
  intro d s hp
  have hr : feedByte s.cfg s.syncPos.toNat d s.history = .cont := by
    rcases hp with h7 | h8 | ⟨h9, hle⟩
    · exact feedByte_of_header s.cfg d s.history (.inl h7)
    · exact feedByte_of_header s.cfg d s.history (.inr h8)
    · exact feedByte_history_of_payload s.cfg d h9 hle
  rw [exec_feed_of_outcome hr, afterFeed_cont_eq]

/-- Settles O44: the three outcomes of the checksum position (`feedByte_history_of_checksum`). -/
theorem checksumPositionEndsTheFrame : Obligations.ChecksumPositionEndsTheFrame := by
  intro d s hp
  have hr := feedByte_history_of_checksum s.cfg d hp
  refine ⟨fun hsum => ?_, fun hsum htype => ?_, fun hsum htype => ?_⟩
  · rw [if_pos (bne_iff_ne.2 hsum)] at hr
    exact exec_feed_of_outcome hr
  · have hpayload : slice s.history 9 s.syncPos.toNat =
        s.readRange .syncHist 9 (s.readBuf .syncHist 8).toNat := by rw [hp, s.slice_history 9 hp.ge]
    rw [hsum, bne_self_eq_false, if_neg Bool.false_ne_true, if_pos htype, hpayload] at hr
    exact ⟨_, exec_feed_of_outcome hr, rfl, rfl, res_afterFeed_accept s d (bankable_decodeFrame s.cfg _ false)⟩
  · rw [hsum, bne_self_eq_false, if_neg Bool.false_ne_true, if_neg htype] at hr
    exact exec_feed_of_outcome hr

/-- Settles O45: beyond the checksum position the outcome is `DESYNC` (`feedByte_history_of_beyond`), and
`SyncInv.extent` ends at that position. -/
theorem beyondTheChecksumPositionDesyncs : Obligations.BeyondTheChecksumPositionDesyncs := by
  refine fun d s => ⟨fun hp => exec_feed_of_outcome (feedByte_history_of_beyond s.cfg d hp), fun hs hp => ?_⟩
  have := hs.extent (by omega)
  omega

/-! What starts a frame. -/

/-- `SYNC_POS` 1 is one behind the position of a stored byte, and nothing else writes a position but 0. -/
theorem syncPos_eq_zero_of_afterFeed {s : State} {d : Byte} {r : SyncResult} (h : (s.afterFeed d r).syncPos = 1) :
    s.syncPos = 0 := by
  by_cases hr : r = .cont
  · subst hr
    have hsucc : s.syncPos + 1 = 0 + 1 := h
    exact (BitVec.add_left_inj 1).1 hsucc
  · rw [afterFeed_syncPos s d hr] at h
    exact absurd h (by decide)

theorem magic_getElem?_ne_I {p : Nat} (h1 : 1 ≤ p) (h5 : p ≤ 5) : magic[p]? ≠ some 0x49 := by
  interval_cases p <;> decide

/-- Settles O46: only a byte stored at position 0 leaves position 1 (`syncPos_eq_zero_of_afterFeed`), and no later
character of the preamble is `I` (`magic_getElem?_ne_I`). -/
theorem onlyAByteAtPositionZeroStartsAFrame : Obligations.OnlyAByteAtPositionZeroStartsAFrame := by
  refine ⟨fun d s t h ht => ?_, fun s h1 h5 => ?_, fun s h6 hv => ?_⟩
  · rw [eq_after_of_exec h] at ht
    exact syncPos_eq_zero_of_afterFeed ht
  · refine exec_feed_of_outcome (r := .desync) ?_
    rw [feedByte_of_le_five s.cfg _ _ h5, if_neg (magic_getElem?_ne_I h1 h5)]
  · refine exec_feed_of_outcome (r := .desync) ?_
    rw [feedByte_of_eq_six s.cfg _ _ h6, if_neg hv.symm]

/-! The run of payload bytes. -/

/-- The named state read off the history. -/
theorem State.syncState_of_history {s : State} {n : Byte} (hn : s.history[8]? = some n) :
    s.syncState = syncStateAt s.history.length n.toNat := by
  obtain ⟨h8, -⟩ := List.getElem?_eq_some_iff.1 hn
  rw [State.length_history] at h8
  rw [State.history_getElem?_of_lt h8, Option.some_inj] at hn
  rw [State.length_history, ← hn]
  rfl

/-- Behind the header the length byte tells the payload from the checksum position. -/
theorem syncStateAt_of_nine_le {p : Nat} (n : Nat) (h9 : 9 ≤ p) :
    syncStateAt p n = if p ≤ 8 + n then .payload (p - 9) else .checksum := by
  have h5 : ¬ p ≤ 5 := by omega
  have h6 : ¬ p = 6 := by omega
  have h7 : ¬ p = 7 := by omega
  have h8 : ¬ p = 8 := by omega
  simp only [syncStateAt, h5, h6, h7, h8, if_false]

theorem syncStateAt_checksum {p n : Nat} (h : p = 9 + n) : syncStateAt p n = .checksum := by
  rw [syncStateAt_of_nine_le n (by omega), if_neg (by omega)]

/-- Bytes fed behind the header that do not reach beyond the declared length are stored, whatever they are. -/
theorem afterAll_feeds_payload {n : Byte} (bs : List Byte) {s : State} (hn : s.history[8]? = some n)
    (hle : s.history.length + bs.length ≤ 9 + n.toNat) :
    (afterAll (feeds bs) s).history = s.history ++ bs ∧ SameBank s (afterAll (feeds bs) s) := by
  induction bs generalizing s with
  | nil => exact ⟨(List.append_nil _).symm, .of_eq rfl rfl rfl rfl rfl rfl⟩
  | cons b bs ih =>
    rw [List.length_cons] at hle
    obtain ⟨h8, -⟩ := List.getElem?_eq_some_iff.1 hn
    have hcont : feedByte s.cfg s.history.length b s.history = .cont := by
      rw [feedByte_of_nine_le s.cfg b hn h8, if_pos (by omega)]
    have hstep : after (.feed b) s = s.afterFeed b .cont := by rw [after_feed_eq, hcont]
    have hhist : (after (.feed b) s).history = s.history ++ [b] := by
      rw [hstep, history_afterFeed_cont hcont]
    have hbank : SameBank s (after (.feed b) s) := by
      rw [hstep]
      exact sameBank_afterFeed s b nofun
    obtain ⟨hrun, hrest⟩ := ih (s := after (.feed b) s)
      (by rw [hhist, List.getElem?_append_left h8, hn])
      (by rw [hhist, List.length_append, List.length_singleton]; omega)
    rw [hhist, List.append_assoc] at hrun
    exact ⟨hrun, hbank.trans hrest⟩

/-- Settles O48: the bytes are appended to the history (`afterAll_feeds_payload`), whose length is then that of the
checksum position. -/
theorem payloadBytesAreSwallowedUninspected : Obligations.PayloadBytesAreSwallowedUninspected := by
  intro s bs hp hlen
  have hn := State.history_getElem?_of_lt (s := s) (j := 8) (by omega)
  have hle : s.history.length + bs.length = 9 + (s.readBuf .syncHist 8).toNat := by
    rw [State.length_history, hp, hlen]
  obtain ⟨hhist, hbank⟩ := afterAll_feeds_payload bs hn hle.le
  refine ⟨_, execAll_eq_next_afterAll _ s, hhist, ?_, hbank⟩
  have hn' : (afterAll (feeds bs) s).history[8]? = some (s.readBuf .syncHist 8) := by
    rw [hhist, List.getElem?_append_left (by rw [State.length_history]; omega), hn]
  rw [State.syncState_of_history hn', hhist, List.length_append]
  exact syncStateAt_checksum hle

end Sys2Proof.Machine
end

section
/-!
PROOFS. The machine of named states simulates the synchronizer (43_stream_sync.md R183): one lemma for each row of the
table of R183.
-/

namespace Sys2Proof.Machine

/-- The positions the invariant allows (10_state.md R30): a row of the table of R183 each. -/
theorem SyncInv.pos_cases {s : State} (hs : SyncInv s) :
    s.syncPos.toNat ≤ 5 ∨ s.syncPos.toNat = 6 ∨ s.syncPos.toNat = 7 ∨ s.syncPos.toNat = 8 ∨
      (9 ≤ s.syncPos.toNat ∧ s.syncPos.toNat ≤ 8 + (s.readBuf .syncHist 8).toNat) ∨
      s.syncPos.toNat = 9 + (s.readBuf .syncHist 8).toNat := by
  have := hs.extent
  omega

theorem slice_append_singleton {f : List Byte} {a : Nat} (d : Byte) (ha : a ≤ f.length) :
    slice (f ++ [d]) a (f.length + 1) = slice f a f.length ++ [d] := by
  rw [slice, slice, List.drop_append_of_le_length ha, List.take_of_length_le (by simp; omega),
    List.take_of_length_le (by simp)]

/-! The relation between the two machines. -/

theorem compactMatches_start {s : State} (h : s.syncPos = 0) : CompactMatches compactStart s := by
  have h0 : s.syncPos.toNat = 0 := by simp [h]
  constructor
  case st => exact (State.syncState_of_pos_zero h).symm
  case sum => rw [State.history_of_pos_zero h]; rfl
  case type | len | payload => omega

/-- A stored byte keeps the two machines together if the compact one moves to the named state of the next position,
adds the byte to its sum, and takes it as type, as length or into the payload where it is one. -/
theorem CompactMatches.pushHist {m m' : CompactSync} {s : State} {d : Byte} (hm : CompactMatches m s)
    (hp : s.syncPos.toNat < 511)
    (st : m'.st = syncStateAt (s.syncPos.toNat + 1) ((s.pushHist d).readBuf .syncHist 8).toNat)
    (sum : m'.sum = m.sum + d)
    (type : m'.type = if s.syncPos.toNat = 7 then d else m.type)
    (len : m'.len = if s.syncPos.toNat = 8 then d else m.len)
    (payload : 8 ≤ s.syncPos.toNat → m'.payload = if s.syncPos.toNat = 8 then [] else m.payload ++ [d]) :
    CompactMatches m' (s.pushHist d) := by
  have hpos := s.pos_pushHist d hp
  have hhist := s.history_pushHist d hp
  have hself := s.readBuf_pushHist_self d
  constructor
  case st => rw [st, State.syncState, hpos]
  case sum => rw [sum, hm.sum, hhist, cs8_append, cs8_singleton]
  case type =>
    intro h
    rw [type]
    split
    next h7 => rw [← h7, hself]
    next h7 => rw [hm.type (by omega), s.readBuf_pushHist_other d (Ne.symm h7)]
  case len =>
    intro h
    rw [len]
    split
    next h8 => rw [← h8, hself]
    next h8 => rw [hm.len (by omega), s.readBuf_pushHist_other d (Ne.symm h8)]
  case payload =>
    intro h
    rw [payload (by omega), hpos, hhist]
    split
    next h8 => rw [h8, slice_self]
    next h8 =>
      rw [hm.payload (by omega), ← s.length_history,
        slice_append_singleton d (by rw [s.length_history]; omega)]

/-- `r` is the answer of `FEED D` in `s`: its outcome, and a compact machine for the state the block goes to. -/
structure Answers (r : SyncResult × CompactSync) (d : Byte) (s : State) : Prop where
  outcome : r.1 = feedByte s.cfg s.syncPos.toNat d s.history
  compact : CompactMatches r.2 (s.afterFeed d r.1)

theorem Answers.restart {s : State} {d : Byte} {r : SyncResult}
    (hr : feedByte s.cfg s.syncPos.toNat d s.history = r) (hne : r ≠ .cont) : Answers (r, compactStart) d s :=
  ⟨hr.symm, compactMatches_start (afterFeed_syncPos s d hne)⟩

theorem Answers.store {s : State} {d : Byte} {m : CompactSync}
    (hr : feedByte s.cfg s.syncPos.toNat d s.history = .cont) (hm : CompactMatches m (s.pushHist d)) :
    Answers (.cont, m) d s :=
  ⟨hr.symm, hm.st, hm.sum, hm.type, hm.len, hm.payload⟩

/-! The rows of the table of R183. -/

section
variable {s : State} {m : CompactSync} (d : Byte) (hm : CompactMatches m s)
include hm

theorem compactFeed_answers_preamble (h5 : s.syncPos.toNat ≤ 5) : Answers (compactFeed s.cfg d m) d s := by
  have hst : m.st = .preamble s.syncPos.toNat := hm.st.trans (if_pos h5)
  have hr := feedByte_of_le_five s.cfg d s.history h5
  by_cases hd : magic[s.syncPos.toNat]? = some d
  · simp only [compactFeed, hst, if_pos hd]
    rw [if_pos hd] at hr
    refine .store hr (hm.pushHist (by omega) ?_ rfl (if_neg (by omega)).symm (if_neg (by omega)).symm (by omega))
    by_cases hlast : s.syncPos.toNat < 5
    · exact (if_pos hlast).trans (if_pos (by omega)).symm
    · obtain h : s.syncPos.toNat = 5 := by omega
      rw [h]
      rfl
  · simp only [compactFeed, hst, if_neg hd]
    rw [if_neg hd] at hr
    exact .restart hr nofun

theorem compactFeed_answers_version (h6 : s.syncPos.toNat = 6) : Answers (compactFeed s.cfg d m) d s := by
  have hst : m.st = .version := by rw [hm.st, State.syncState, h6]; rfl
  have hr := feedByte_of_eq_six s.cfg d s.history h6
  by_cases hd : d = s.cfg.version
  · simp only [compactFeed, hst, if_pos hd]
    rw [if_pos hd] at hr
    refine .store hr (hm.pushHist (by omega) ?_ rfl (if_neg (by omega)).symm (if_neg (by omega)).symm (by omega))
    rw [h6]
    rfl
  · simp only [compactFeed, hst, if_neg hd]
    rw [if_neg hd] at hr
    exact .restart hr nofun

theorem compactFeed_answers_headerType (h7 : s.syncPos.toNat = 7) : Answers (compactFeed s.cfg d m) d s := by
  have hst : m.st = .headerType := by rw [hm.st, State.syncState, h7]; rfl
  simp only [compactFeed, hst]
  refine .store (feedByte_of_header s.cfg d s.history (.inl h7))
    (hm.pushHist (by omega) ?_ rfl (if_pos h7).symm (if_neg (by omega)).symm (by omega))
  rw [h7]
  rfl

theorem compactFeed_answers_headerLen (h8 : s.syncPos.toNat = 8) : Answers (compactFeed s.cfg d m) d s := by
  have hst : m.st = .headerLen := by rw [hm.st, State.syncState, h8]; rfl
  have hlen : (s.pushHist d).readBuf .syncHist 8 = d := h8 ▸ s.readBuf_pushHist_self d
  simp only [compactFeed, hst]
  refine .store (feedByte_of_header s.cfg d s.history (.inr h8))
    (hm.pushHist (by omega) ?_ rfl (if_neg (by omega)).symm (if_pos h8).symm fun _ => (if_pos h8).symm)
  rw [h8, hlen, syncStateAt_of_nine_le _ le_rfl]
  exact if_congr (by omega) rfl rfl

theorem compactFeed_answers_payload (h9 : 9 ≤ s.syncPos.toNat)
    (hle : s.syncPos.toNat ≤ 8 + (s.readBuf .syncHist 8).toNat) : Answers (compactFeed s.cfg d m) d s := by
  have hst : m.st = .payload (s.syncPos.toNat - 9) := by
    rw [hm.st, State.syncState, syncStateAt_of_nine_le _ h9, if_pos hle]
  have hn : (s.readBuf .syncHist 8).toNat < 256 := (s.readBuf .syncHist 8).isLt
  simp only [compactFeed, hst]
  refine .store (feedByte_history_of_payload s.cfg d h9 hle)
    (hm.pushHist (by omega) ?_ rfl (if_neg (by omega)).symm (if_neg (by omega)).symm
      fun _ => (if_neg (by omega)).symm)
  rw [s.readBuf_pushHist_other d (by omega), syncStateAt_of_nine_le _ (by omega), hm.len h9,
    Nat.sub_add_comm h9]
  exact if_congr (by omega) rfl rfl

theorem compactFeed_answers_checksum (hp : s.syncPos.toNat = 9 + (s.readBuf .syncHist 8).toNat) :
    Answers (compactFeed s.cfg d m) d s := by
  have hst : m.st = .checksum := hm.st.trans (syncStateAt_checksum hp)
  simp only [compactFeed, hst]
  rw [hm.sum, hm.type (by omega), hm.payload (by omega)]
  refine .restart (feedByte_history_of_checksum s.cfg d hp) ?_
  split
  · nofun
  · split <;> nofun

end

theorem compactFeed_answers {s : State} {m : CompactSync} (hs : SyncInv s) (hm : CompactMatches m s) (d : Byte) :
    Answers (compactFeed s.cfg d m) d s := by
  obtain h5 | h6 | h7 | h8 | ⟨h9, hle⟩ | hend := hs.pos_cases
  · exact compactFeed_answers_preamble d hm h5
  · exact compactFeed_answers_version d hm h6
  · exact compactFeed_answers_headerType d hm h7
  · exact compactFeed_answers_headerLen d hm h8
  · exact compactFeed_answers_payload d hm h9 hle
  · exact compactFeed_answers_checksum d hm hend

/-- Settles O50: in each row of the table the compact machine answers as `feed_byte` does (`compactFeed_answers`): it
either stores the byte along with the block (`CompactMatches.pushHist`) or starts again
(`compactMatches_start`). -/
theorem namedStateMachineRefinesTheSynchronizer : Obligations.NamedStateMachineRefinesTheSynchronizer := by
  refine ⟨fun _ => compactMatches_start, fun d s m hs hm => ?_⟩
  obtain ⟨hout, hcompact⟩ := compactFeed_answers hs hm d
  exact ⟨_, exec_feed_of_outcome hout.symm, rfl, hcompact⟩

end Sys2Proof.Machine
end

section
/-!
PROOFS. The order of the checks of `decode_frame` (60_exceptions.md R207), and the one command that can report
`BAD_CHECKSUM` (R203).
-/

namespace Sys2Proof.Machine

/-! `decode_frame` in the terms of R207. -/

/-- A sequence of 2 bytes or more is taken by its first two. -/
theorem decodeFrame_of_getElem? (c : Config) {f : List Byte} {t l : Byte} (v : Bool) (ht : f[0]? = some t)
    (hl : f[1]? = some l) :
    decodeFrame c f v =
      if lengthOk f l v = false then malformed c
      else if (v && !checksumOk f) = true then badChecksum c
      else decodePayload c f t v := by
  match f, hl with
  | t' :: l' :: rest, hl =>
    obtain rfl : t' = t := by simpa using ht
    obtain rfl : l' = l := by simpa using hl
    simp [decodeFrame]

theorem lengthOk_eq_false_iff (f : List Byte) (l : Byte) (v : Bool) :
    lengthOk f l v = false ↔ (l.toNat : Int) ≠ (f.length : Int) - 2 - (if v then 1 else 0) := by
  rw [← Bool.not_eq_true, lengthOk_iff]

/-- R124: the last byte against the sum of the bytes before it; the empty sequence has no last byte. -/
theorem checksumOk_iff (f : List Byte) : checksumOk f = true ↔ f.getLast? = some (cs8 f.dropLast) := by
  obtain rfl | ⟨g, x, rfl⟩ := List.eq_nil_or_concat' f
  · simp [checksumOk]
  · rw [checksumOk_append_singleton, List.getLast?_concat, List.dropLast_concat, Option.some_inj]

theorem checksum_fails_iff (f : List Byte) (v : Bool) :
    (v && !checksumOk f) = true ↔ v = true ∧ f.getLast? ≠ some (cs8 f.dropLast) := by
  rw [Bool.and_eq_true, Bool.not_eq_true', ← Bool.not_eq_true, checksumOk_iff]

/-- With `FRM_OVF` set the loaded bytes are not looked at (R131). -/
theorem fdecResult_of_ovf {s : State} (h : s.frmOvf = true) (v : Bool) : fdecResult v s = malformed s.cfg :=
  if_pos h

/-- Settles O30: `decodeFrame_of_getElem?` has the checks in the order of R207, and each of its conditions is the one
R207 names (`lengthOk_eq_false_iff`, `checksum_fails_iff`, `isMulti_iff`). -/
theorem decodeFrameChecksInOrder : Obligations.DecodeFrameChecksInOrder := by
  refine ⟨fun c f v hf hc => (shortInputFollowsTheParameter c f v hf).1 hc, fun c f v t l ht hl => ?_,
    fun v s hovf => ⟨_, exec_after (.fdec v) s, ?_⟩⟩
  · rw [decodeFrame_of_getElem? c v ht hl]
    exact if_congr (lengthOk_eq_false_iff f l v) rfl
      (if_congr (checksum_fails_iff f v) rfl (if_congr (isMulti_iff c t) rfl rfl))
  · simp [after, fdecResult_of_ovf hovf, malformed, statusOf]

/-! Where `BAD_CHECKSUM` comes from. -/

theorem decodePayload_status_ne_badChecksum (c : Config) (f : List Byte) (t : Byte) (v : Bool) :
    (decodePayload c f t v).status ≠ .badChecksum := by
  unfold decodePayload
  split
  · split <;> nofun
  · nofun

theorem decodeShort_status_ne_badChecksum (c : Config) (f : List Byte) (v : Bool) :
    (decodeShort c f v).status ≠ .badChecksum := by
  unfold decodeShort
  split <;> nofun

/-- Without verification the checksum check is skipped, and no other check answers `BAD_CHECKSUM`. -/
theorem decodeFrame_false_status_ne_badChecksum (c : Config) (f : List Byte) :
    (decodeFrame c f false).status ≠ .badChecksum := by
  match f with
  | [] | [_] => exact decodeShort_status_ne_badChecksum c _ false
  | t :: l :: rest =>
    rw [decodeFrame_of_getElem? c false rfl rfl]
    split
    · nofun
    · exact decodePayload_status_ne_badChecksum c _ t false

theorem fdecResult_false_status_ne_badChecksum (s : State) : (fdecResult false s).status ≠ .badChecksum := by
  unfold fdecResult
  split
  · nofun
  · exact decodeFrame_false_status_ne_badChecksum s.cfg s.frame

/-- A result that does not say `BAD_CHECKSUM` does not put it into `RES_STATUS`. -/
theorem writeResult_resStatus_ne_badChecksum (s : State) {p : ParsedCommand} (h : p.status ≠ .badChecksum) :
    (s.writeResult p).resStatus ≠ .badChecksum :=
  mt (statusOf_eq_badChecksum_iff p.status).1 h

/-- An accepted stream frame is decoded without verification (43_stream_sync.md R176), and every other outcome keeps
the bank. -/
theorem after_feed_resStatus_ne_badChecksum {s : State} (d : Byte) (h : s.resStatus ≠ .badChecksum) :
    (after (.feed d) s).resStatus ≠ .badChecksum := by
  rw [after_feed_eq]
  cases hr : feedByte s.cfg s.history.length d s.history with
  | accept r =>
    obtain ⟨n, -, -, -, rfl⟩ := result_of_accept hr
    exact writeResult_resStatus_ne_badChecksum s (decodeFrame_false_status_ne_badChecksum s.cfg _)
  | cont | desync | checksumError | dropped => exact h

/-- Settles O25: the other commands that write the bank, `FDEC 0` and `FEED`, decode without verification
(`decodeFrame_false_status_ne_badChecksum`), and the rest leave it alone (`sameBank_after`). -/
theorem onlyVerifyingFdecReportsBadChecksum : Obligations.OnlyVerifyingFdecReportsBadChecksum := by
  intro i s t hexec hs ht
  obtain rfl := eq_after_of_exec hexec
  cases i with
  | fdec v =>
    cases v with
    | true => rfl
    | false => exact absurd ht (writeResult_resStatus_ne_badChecksum s (fdecResult_false_status_ne_badChecksum s))
  | feed d => exact absurd ht (after_feed_resStatus_ne_badChecksum d hs)
  | nop | srst | fload | fclr =>
    refine absurd ((SameBank.status ?_).symm.trans ht) hs
    exact sameBank_after s nofun nofun

end Sys2Proof.Machine
end

section
/-!
PROOFS. Loads without a clear (70_reset_and_hazards.md R236) and the reset input (R230).
-/

namespace Sys2Proof.Machine

/-- A frame buffer that has not overflowed is a log of the bytes it holds. -/
theorem loaded_frame {s : State} (hovf : s.frmOvf = false) (hle : s.frmLen.toNat ≤ nFrm) : Loaded s s.frame where
  frame := (List.take_of_length_le (by rwa [State.length_frame])).symm
  ovf := by simp [hovf, hle]

/-- Settles O41: the bytes before the loads are a log like any other (`loaded_frame`), so the loads extend it
(`Loaded.afterAll_floads`), and with room for all of them the buffer holds the whole log. -/
theorem loadsWithoutClearAreConcatenated : Obligations.LoadsWithoutClearAreConcatenated := by
  intro s g v hovf hroom
  have hold : Loaded s s.frame := loaded_frame hovf (by simp only [nFrm]; omega)
  have hload : Loaded (afterAll (floads g) s) (s.frame ++ g) := hold.afterAll_floads g
  have hframe : (afterAll (floads g) s).frame = s.frame ++ g := by
    rw [hload.frame, List.take_of_length_le (by rwa [List.length_append, State.length_frame])]
  have hres := hload.res_after_fdec v
  rw [afterAll_cfg] at hres
  exact ⟨_, _, execAll_eq_next_afterAll (floads g) s, hframe, exec_after (.fdec v) _, hres,
    (State.frame_congr rfl rfl).trans hframe⟩

theorem applyReset_buf (s : State) (n : BufName) : s.applyReset.buf n = [] := resetWith_buf s.cfg n

/-- Settles O12: the step takes `rst` (`step_rst`), whose registers are those of `State.resetWith` and whose buffers
are empty (`applyReset_buf`). -/
theorem resetInputRestoresTheRegisters : Obligations.ResetInputRestoresTheRegisters := by
  intro s rest hc hi
  refine ⟨_, step_rst hc hi, rfl, rfl, rfl, rfl, rfl, rfl, rfl, rfl, fun n i => ?_, rfl⟩
  rw [applyReset_buf, Memory.get?_nil]

end Sys2Proof.Machine
end
